-- ==== Sys2Proof/Word.lean ====
section
/-! DEFINITION. The word types of the e500: 32-bit registers and addresses (spec R6, XLEN = 32), 8-bit memory bytes (R80). -/

namespace Sys2Proof

/-- A register, an address or an instruction word: 32 bits (R6, R110). -/
abbrev Word := BitVec 32

/-- One byte of memory (R80). -/
abbrev Byte := BitVec 8

end Sys2Proof
end

