-- ==== Sys2Proof/Syntax.lean ====
section
/-!
DEFINITION. The instructions: one constructor per row of spec/opcode_table.json, in the table's order.  Option bits that
make several mnemonics of one row (`b`/`ba`/`bl`/`bla`, `bclr`/`bclrl`, `rlwinm`/`rlwinm.`) are operands, as in the table.
-/

namespace Sys2Proof

/-- The number of a general-purpose register (R20). -/
abbrev Reg := Fin 32

/-- The 13 instructions in scope (R4 item 5). -/
inductive Instr where
  /-- R140: `addi RT,RA,SI`; `li RT,SI` when RA = 0. -/
  | addi (rt ra : Reg) (si : BitVec 16)
  /-- R141: `addis RT,RA,SI`; `lis RT,SI` when RA = 0. -/
  | addis (rt ra : Reg) (si : BitVec 16)
  /-- R175: `sc`. -/
  | sc
  /-- R150: `b`, `ba` (AA), `bl` (LK), `bla` (AA and LK). -/
  | b (li : BitVec 24) (aa lk : Bool)
  /-- R151: `bclr BO,BI`, `bclrl BO,BI` (LK); BI is a CR bit in IBM-32 numbering. -/
  | bclr (bo : BitVec 5) (bi : Fin 32) (lk : Bool)
  /-- R176: `rfi`. -/
  | rfi
  /-- R143: `rlwinm RA,RS,SH,MB,ME`, `rlwinm.` (Rc); MB and ME are IBM-32 bit positions. -/
  | rlwinm (rs ra : Reg) (sh mb me : Fin 32) (rc : Bool)
  /-- R142: `ori RA,RS,UI`; RS is the source and RA the target. -/
  | ori (rs ra : Reg) (ui : BitVec 16)
  /-- R174: `mfmsr RT`. -/
  | mfmsr (rt : Reg)
  /-- R173: `mtmsr RS`. -/
  | mtmsr (rs : Reg)
  /-- R171: `mfspr RT,SPRN`. -/
  | mfspr (rt : Reg) (sprn : BitVec 10)
  /-- R170: `mtspr SPRN,RS`. -/
  | mtspr (sprn : BitVec 10) (rs : Reg)
  /-- R160: `stwu RS,D(RA)`. -/
  | stwu (rs ra : Reg) (d : BitVec 16)
  deriving DecidableEq, Repr

end Sys2Proof
end

