-- ==== Sys2Proof/Decode.lean ====
section
/-!
DEFINITION. The decoder, from the opcode map of spec R120 to R122, and the encoder, from the formats R112 to R118.  A word
selects the one row whose `w & mask = match`; a word that matches no row is rejected by name (R125).
-/

namespace Sys2Proof

/-- Why bytes do not decode. -/
inductive DecodeError where
  /-- Fewer than the four bytes of an instruction (R110). -/
  | truncated
  /-- The word matches no row of the opcode table (R124, R125). -/
  | notInSpec (w : Word)
  deriving DecidableEq, Repr

/-- The five-bit field `w[lo+4:lo]` as a number: a register, a rotate amount or a bit position. -/
def field5 (w : Word) (lo : Nat) : Fin 32 := (w.extractLsb' lo 5).toFin

/-- The 16-bit immediate field SI, UI or D: `w[15:0]` (R112). -/
def field16 (w : Word) : BitVec 16 := w.extractLsb' 0 16

/-- SPRN = `w[15:11] || w[20:16]`: the halves are swapped in the word (R116). -/
def fieldSpr (w : Word) : BitVec 10 := w.extractLsb' 11 5 ++ w.extractLsb' 16 5

/-- One row of the opcode map: a word `w` is this instruction when `w & mask = pattern`. -/
structure OpRow where
  mnemonic : String
  pattern : Word
  mask : Word
  build : Word → Instr

/-- The rows of spec/opcode_table.json, in its order. -/
def opRows : List OpRow :=
  [⟨"addi", 0x38000000, 0xFC000000, fun w => .addi (field5 w 21) (field5 w 16) (field16 w)⟩,
   ⟨"addis", 0x3C000000, 0xFC000000, fun w => .addis (field5 w 21) (field5 w 16) (field16 w)⟩,
   ⟨"sc", 0x44000002, 0xFFFFFFFF, fun _ => .sc⟩,
   ⟨"b", 0x48000000, 0xFC000000, fun w => .b (w.extractLsb' 2 24) (w.getLsbD 1) (w.getLsbD 0)⟩,
   ⟨"bclr", 0x4C000020, 0xFC00FFFE,
     fun w => .bclr (w.extractLsb' 21 5) (field5 w 16) (w.getLsbD 0)⟩,
   ⟨"rfi", 0x4C000064, 0xFFFFFFFF, fun _ => .rfi⟩,
   ⟨"rlwinm", 0x54000000, 0xFC000000,
     fun w => .rlwinm (field5 w 21) (field5 w 16) (field5 w 11) (field5 w 6) (field5 w 1) (w.getLsbD 0)⟩,
   ⟨"ori", 0x60000000, 0xFC000000, fun w => .ori (field5 w 21) (field5 w 16) (field16 w)⟩,
   ⟨"mfmsr", 0x7C0000A6, 0xFC1FFFFF, fun w => .mfmsr (field5 w 21)⟩,
   ⟨"mtmsr", 0x7C000124, 0xFC1FFFFF, fun w => .mtmsr (field5 w 21)⟩,
   ⟨"mfspr", 0x7C0002A6, 0xFC0007FF, fun w => .mfspr (field5 w 21) (fieldSpr w)⟩,
   ⟨"mtspr", 0x7C0003A6, 0xFC0007FF, fun w => .mtspr (fieldSpr w) (field5 w 21)⟩,
   ⟨"stwu", 0x94000000, 0xFC000000, fun w => .stwu (field5 w 21) (field5 w 16) (field16 w)⟩]

/-- The instruction a word is, total on all words (R120 to R125). -/
def decode (w : Word) : Except DecodeError Instr :=
  match opRows.find? (fun r => w &&& r.mask == r.pattern) with
  | some r => .ok (r.build w)
  | none => .error (.notInSpec w)

/-- A word from its four bytes in address order, the first the most significant (R81). -/
def wordOfBytes (b0 b1 b2 b3 : Byte) : Word := b0 ++ b1 ++ b2 ++ b3

/-- The four bytes of a word in address order (R81). -/
def bytesOfWord (w : Word) : List Byte :=
  [w.extractLsb' 24 8, w.extractLsb' 16 8, w.extractLsb' 8 8, w.extractLsb' 0 8]

/-- Decoding any bytes: the instruction and the bytes after it (every instruction is four bytes long, R110). -/
def decodeBytes : List Byte → Except DecodeError (Instr × List Byte)
  | b0 :: b1 :: b2 :: b3 :: rest =>
    match decode (wordOfBytes b0 b1 b2 b3) with
    | .ok i => .ok (i, rest)
    | .error e => .error e
  | _ => .error .truncated

/-! ### The encoder -/

/-- A register, amount or position as a five-bit field. -/
def bits5 (n : Fin 32) : BitVec 5 := BitVec.ofFin n

/-- D-form: OPCD, two register fields, a 16-bit immediate (R112). -/
def encodeD (op : BitVec 6) (r1 r2 : Reg) (imm : BitVec 16) : Word := op ++ bits5 r1 ++ bits5 r2 ++ imm

/-- XFX-form: OPCD 31, a register, the two halves of SPRN swapped, XO, a zero (R116). -/
def encodeXFX (r : Reg) (sprn : BitVec 10) (xo : BitVec 10) : Word :=
  31#6 ++ bits5 r ++ sprn.extractLsb' 0 5 ++ sprn.extractLsb' 5 5 ++ xo ++ 0#1

/-- X-form of `mtmsr` and `mfmsr`: OPCD 31, a register, ten zeros, XO, a zero (R115). -/
def encodeX (r : Reg) (xo : BitVec 10) : Word := 31#6 ++ bits5 r ++ 0#10 ++ xo ++ 0#1

/-- The word of an instruction (R112 to R118). -/
def encode : Instr → Word
  | .addi rt ra si => encodeD 14 rt ra si
  | .addis rt ra si => encodeD 15 rt ra si
  | .sc => 17#6 ++ 0#24 ++ 1#1 ++ 0#1
  | .b li aa lk => 18#6 ++ li ++ BitVec.ofBool aa ++ BitVec.ofBool lk
  | .bclr bo bi lk => 19#6 ++ bo ++ bits5 bi ++ 0#5 ++ 16#10 ++ BitVec.ofBool lk
  | .rfi => 19#6 ++ 0#15 ++ 50#10 ++ 0#1
  | .rlwinm rs ra sh mb me rc =>
    21#6 ++ bits5 rs ++ bits5 ra ++ bits5 sh ++ bits5 mb ++ bits5 me ++ BitVec.ofBool rc
  | .ori rs ra ui => encodeD 24 rs ra ui
  | .mfmsr rt => encodeX rt 83
  | .mtmsr rs => encodeX rs 146
  | .mfspr rt sprn => encodeXFX rt sprn 339
  | .mtspr sprn rs => encodeXFX rs sprn 467
  | .stwu rs ra d => encodeD 37 rs ra d

/-- What the decoder reads from the bytes of an instruction whose bits, numbered as spec/opcode_table.json numbers them,
are `w`; the bits from `nbits` on are 0. -/
def decodeTableWord (nbits w : Nat) : Option Instr :=
  match decodeBytes (bytesOfWord (BitVec.ofNat 32 (w % 2 ^ nbits))) with
  | .ok (i, _) => some i
  | .error _ => none

end Sys2Proof
end

