-- ==== Sys2Proof/Config.lean ====
section
/-!
DEFINITION. What an implementation fixes (the parameters of spec R6 and the open parameters of decision D20) and the
free values.  The parameters are plain data: `State` holds one `Config`, no step changes it, and every statement about
all states is a statement about all parameters.  The names of interrupt types and PIC sources stand here because two
parameters speak of them.
-/

namespace Sys2Proof

/-- The twenty interrupt types, one per IVOR (R205, R206); the comment is the IVOR's number. -/
inductive IntType where
  | criticalInput        -- 0
  | machineCheck         -- 1
  | dataStorage          -- 2
  | instructionStorage   -- 3
  | externalInput        -- 4
  | alignment            -- 5
  | program              -- 6
  | fpUnavailable        -- 7
  | systemCall           -- 8
  | apUnavailable        -- 9
  | decrementer          -- 10
  | fixedInterval        -- 11
  | watchdog             -- 12
  | dataTlbError         -- 13
  | instructionTlbError  -- 14
  | debug                -- 15
  | speUnavailable       -- 32
  | embeddedFpData       -- 33
  | embeddedFpRound      -- 34
  | performanceMonitor   -- 35
  deriving DecidableEq, Repr

/-- The interrupt types that are taken at an instruction boundary, by a pending and an enabling condition (R212). -/
inductive AsyncInt where
  | machineCheck
  | debug
  | criticalInput
  | watchdog
  | externalInput
  | fixedInterval
  | decrementer
  | performanceMonitor
  deriving DecidableEq, Repr

/-- A request source of the PIC: external interrupt IRQ0 to IRQ11 or internal interrupt 0 to 63 (R250, R254, R255). -/
inductive Source where
  | ext (n : Fin 12)
  | int (n : Fin 64)
  deriving DecidableEq, Repr

/-- CORE_VARIANT (R6, R41). -/
inductive CoreVariant where
  | e500v1
  | e500v2
  deriving DecidableEq, Repr

/-- A range of byte addresses: `size` bytes from `base`. -/
structure Region where
  base : Nat
  size : Nat
  deriving DecidableEq, Repr

/-- The parameters of the machine (R6; the last five are the open parameters of decision D20). -/
structure Config where
  /-- CORE_VARIANT: fixes the PVR (R41). -/
  variant : CoreVariant
  /-- CORE_ID: the value of PIR (R53), and which core's `int` the modelled core listens to (R248). -/
  coreId : Word
  /-- RESET_PC (R262). -/
  resetPc : Word
  /-- CCSRBAR: the base the PIC's offsets are added to (R245). -/
  ccsrbar : Word
  /-- MEM_REGIONS: the addresses that are ordinary memory (R6, R90). -/
  memRegions : List Region
  /-- INT_PRIORITY: the order among simultaneous asynchronous interrupts, highest first (R214). -/
  intPriority : List AsyncInt
  /-- The core's current task priority in the PIC, which a source must exceed (R251); 0 masks nothing. -/
  taskPriority : BitVec 4
  /-- Whether a source must also exceed every source in service (R251). -/
  inServiceMasks : Bool
  /-- Whether a read of PIC_IACK acknowledges: marks the source in service and clears its edge (R252). -/
  iackAcknowledges : Bool
  /-- The order among eligible sources of one priority, first preferred (R252). -/
  tieOrder : List Source
  /-- What a read of PIC_IACK returns when no source is eligible (R252). -/
  spuriousVector : BitVec 16
  deriving DecidableEq, Repr

/-- The default order of R214, items (2) to (9). PRESUMED (log 13). -/
def Config.defaultPriority : List AsyncInt :=
  [.machineCheck, .debug, .criticalInput, .watchdog, .externalInput, .fixedInterval, .decrementer,
   .performanceMonitor]

/-- The parameters the reset state carries. PRESUMED / DESIGN CHOICE, parameter by parameter (log 2, 3, 4, 5, 13, 29, 30);
unsafe for a claim that uses them: state claims over every `Config`. -/
def Config.default : Config where
  variant := .e500v2
  coreId := 0
  resetPc := 0xFFFFFFFC
  ccsrbar := 0xFF700000
  memRegions := [⟨0, 0xFF700000⟩, ⟨0xFF800000, 0x800000⟩]
  intPriority := Config.defaultPriority
  taskPriority := 0
  inServiceMasks := false
  iackAcknowledges := true
  tieOrder := []
  spuriousVector := 0xFFFF

/-- FREE VALUE (log 12): whether the core takes an enabled pending interrupt at a boundary for which `State.inputs`
holds no entry; R213 leaves the choice open. The argument counts the free values drawn so far. -/
opaque Config.takesInterrupt : Nat → Bool

/-- FREE VALUE (log 15): the cause bits a machine check leaves in MCSR; R220 gives none. -/
opaque Config.freeMcsr : Nat → Word

/-- FREE VALUE (log 15): the address a machine check whose error is not recoverable leaves in MCSRR0; R220 says only
"an instruction address". -/
opaque Config.freeAddress : Nat → Word

end Sys2Proof
end

