-- ==== Sys2Proof/Machine/Spr.lean ====
section
/-!
DEFINITION. The special-purpose register space: the master table of spec R36, row by row.  It says what an SPR number
names, which privilege it needs, and how `mtspr` and `mfspr` treat it; where the registers live is Machine/State.lean.
-/

namespace Sys2Proof.Machine

/-- The admitted registers that have storage (R36). -/
inductive SprReg where
  | xer | lr | ctr
  | srr0 | srr1 | csrr0 | csrr1 | mcsrr0 | mcsrr1
  | dear | esr
  | ivpr
  | ivor (t : IntType)
  | sprg (n : Fin 8)
  deriving DecidableEq, Repr

/-- The "model" column of R36. -/
inductive SprModel where
  /-- `rw`: plain 32-bit storage. -/
  | rw (r : SprReg)
  /-- `masked`: storage that keeps only the bits of the mask. -/
  | masked (r : SprReg) (mask : Word)
  /-- `ro`: `mfspr` reads another number's storage, `mtspr` is refused (SPR 260 to 263). -/
  | ro (r : SprReg)
  /-- `ro: CORE_ID` (SPR 286). -/
  | roPir
  /-- `ro: rule R41 value` (SPR 287). -/
  | roPvr
  /-- `refuse`: no meaning is given to `mtspr` or `mfspr` of this number (decision D17). -/
  | refuse
  deriving DecidableEq, Repr

/-- The "priv" column of R36: U, Ur, S. -/
inductive SprPriv where
  | user
  | userRead
  | supervisor
  deriving DecidableEq, Repr

/-- One row of R36. -/
structure SprRow where
  num : Nat
  name : String
  priv : SprPriv
  model : SprModel
  deriving DecidableEq, Repr

/-- The write mask of IVPR: `value & 0xFFFF_0000` (R42, decision D25). -/
def ivprMask : Word := 0xFFFF0000

/-- The write mask of every IVOR: `value & 0x0000_FFF0` (R43, decision D25). -/
def ivorMask : Word := 0x0000FFF0

/-- Rows of R36 below 64. -/
def sprRowsLow : List SprRow :=
  [⟨1, "XER", .user, .rw .xer⟩,
   ⟨8, "LR", .user, .rw .lr⟩,
   ⟨9, "CTR", .user, .rw .ctr⟩,
   ⟨22, "DEC", .supervisor, .refuse⟩,
   ⟨26, "SRR0", .supervisor, .rw .srr0⟩,
   ⟨27, "SRR1", .supervisor, .rw .srr1⟩,
   ⟨48, "PID0", .supervisor, .refuse⟩,
   ⟨54, "DECAR", .supervisor, .refuse⟩,
   ⟨58, "CSRR0", .supervisor, .rw .csrr0⟩,
   ⟨59, "CSRR1", .supervisor, .rw .csrr1⟩,
   ⟨61, "DEAR", .supervisor, .rw .dear⟩,
   ⟨62, "ESR", .supervisor, .rw .esr⟩,
   ⟨63, "IVPR", .supervisor, .masked .ivpr ivprMask⟩]

/-- Rows of R36 from 256 to 340. -/
def sprRowsGeneral : List SprRow :=
  [⟨256, "USPRG0", .user, .refuse⟩,
   ⟨260, "SPRG4", .userRead, .ro (.sprg 4)⟩,
   ⟨261, "SPRG5", .userRead, .ro (.sprg 5)⟩,
   ⟨262, "SPRG6", .userRead, .ro (.sprg 6)⟩,
   ⟨263, "SPRG7", .userRead, .ro (.sprg 7)⟩,
   ⟨268, "TBL", .userRead, .refuse⟩,
   ⟨269, "TBU", .userRead, .refuse⟩,
   ⟨272, "SPRG0", .supervisor, .rw (.sprg 0)⟩,
   ⟨273, "SPRG1", .supervisor, .rw (.sprg 1)⟩,
   ⟨274, "SPRG2", .supervisor, .rw (.sprg 2)⟩,
   ⟨275, "SPRG3", .supervisor, .rw (.sprg 3)⟩,
   ⟨276, "SPRG4", .supervisor, .rw (.sprg 4)⟩,
   ⟨277, "SPRG5", .supervisor, .rw (.sprg 5)⟩,
   ⟨278, "SPRG6", .supervisor, .rw (.sprg 6)⟩,
   ⟨279, "SPRG7", .supervisor, .rw (.sprg 7)⟩,
   ⟨284, "TBL", .supervisor, .refuse⟩,
   ⟨285, "TBU", .supervisor, .refuse⟩,
   ⟨286, "PIR", .supervisor, .roPir⟩,
   ⟨287, "PVR", .supervisor, .roPvr⟩,
   ⟨304, "DBSR", .supervisor, .refuse⟩,
   ⟨308, "DBCR0", .supervisor, .refuse⟩,
   ⟨309, "DBCR1", .supervisor, .refuse⟩,
   ⟨310, "DBCR2", .supervisor, .refuse⟩,
   ⟨336, "TSR", .supervisor, .refuse⟩,
   ⟨340, "TCR", .supervisor, .refuse⟩]

/-- Rows of R36 for the IVORs: SPR = 400 + n, and 496 + n for IVOR32 to IVOR35 (R43). -/
def sprRowsIvor : List SprRow :=
  [⟨400, "IVOR0", .supervisor, .masked (.ivor .criticalInput) ivorMask⟩,
   ⟨401, "IVOR1", .supervisor, .masked (.ivor .machineCheck) ivorMask⟩,
   ⟨402, "IVOR2", .supervisor, .masked (.ivor .dataStorage) ivorMask⟩,
   ⟨403, "IVOR3", .supervisor, .masked (.ivor .instructionStorage) ivorMask⟩,
   ⟨404, "IVOR4", .supervisor, .masked (.ivor .externalInput) ivorMask⟩,
   ⟨405, "IVOR5", .supervisor, .masked (.ivor .alignment) ivorMask⟩,
   ⟨406, "IVOR6", .supervisor, .masked (.ivor .program) ivorMask⟩,
   ⟨407, "IVOR7", .supervisor, .masked (.ivor .fpUnavailable) ivorMask⟩,
   ⟨408, "IVOR8", .supervisor, .masked (.ivor .systemCall) ivorMask⟩,
   ⟨409, "IVOR9", .supervisor, .masked (.ivor .apUnavailable) ivorMask⟩,
   ⟨410, "IVOR10", .supervisor, .masked (.ivor .decrementer) ivorMask⟩,
   ⟨411, "IVOR11", .supervisor, .masked (.ivor .fixedInterval) ivorMask⟩,
   ⟨412, "IVOR12", .supervisor, .masked (.ivor .watchdog) ivorMask⟩,
   ⟨413, "IVOR13", .supervisor, .masked (.ivor .dataTlbError) ivorMask⟩,
   ⟨414, "IVOR14", .supervisor, .masked (.ivor .instructionTlbError) ivorMask⟩,
   ⟨415, "IVOR15", .supervisor, .masked (.ivor .debug) ivorMask⟩,
   ⟨528, "IVOR32", .supervisor, .masked (.ivor .speUnavailable) ivorMask⟩,
   ⟨529, "IVOR33", .supervisor, .masked (.ivor .embeddedFpData) ivorMask⟩,
   ⟨530, "IVOR34", .supervisor, .masked (.ivor .embeddedFpRound) ivorMask⟩,
   ⟨531, "IVOR35", .supervisor, .masked (.ivor .performanceMonitor) ivorMask⟩]

/-- The other rows of R36 from 512 up. -/
def sprRowsHigh : List SprRow :=
  [⟨512, "SPEFSCR", .user, .refuse⟩,
   ⟨526, "ATBL", .userRead, .refuse⟩,
   ⟨527, "ATBU", .userRead, .refuse⟩,
   ⟨570, "MCSRR0", .supervisor, .rw .mcsrr0⟩,
   ⟨571, "MCSRR1", .supervisor, .rw .mcsrr1⟩,
   ⟨572, "MCSR", .supervisor, .refuse⟩,
   ⟨574, "DSRR0", .supervisor, .refuse⟩,
   ⟨575, "DSRR1", .supervisor, .refuse⟩,
   ⟨624, "MAS0", .supervisor, .refuse⟩,
   ⟨625, "MAS1", .supervisor, .refuse⟩,
   ⟨626, "MAS2", .supervisor, .refuse⟩,
   ⟨627, "MAS3", .supervisor, .refuse⟩,
   ⟨628, "MAS4", .supervisor, .refuse⟩,
   ⟨630, "MAS6", .supervisor, .refuse⟩,
   ⟨633, "PID1", .supervisor, .refuse⟩,
   ⟨634, "PID2", .supervisor, .refuse⟩,
   ⟨688, "TLB0CFG", .supervisor, .refuse⟩,
   ⟨689, "TLB1CFG", .supervisor, .refuse⟩,
   ⟨690, "TLB2CFG", .supervisor, .refuse⟩,
   ⟨691, "TLB3CFG", .supervisor, .refuse⟩,
   ⟨944, "MAS7", .supervisor, .refuse⟩,
   ⟨1008, "HID0", .supervisor, .refuse⟩,
   ⟨1009, "HID1", .supervisor, .refuse⟩,
   ⟨1012, "MMUCSR0", .supervisor, .refuse⟩,
   ⟨1015, "MMUCFG", .supervisor, .refuse⟩]

/-- The master SPR table (R36). -/
def sprTable : List SprRow :=
  sprRowsLow ++ sprRowsGeneral ++ sprRowsIvor ++ sprRowsHigh

/-- The row of an SPR number; none for a number the table does not name. -/
def sprRow (n : BitVec 10) : Option SprRow :=
  sprTable.find? (fun r => r.num == n.toNat)

/-- How `mtspr` and `mfspr` treat a number; "any other number" of R36 is refused. -/
def sprModel (n : BitVec 10) : SprModel :=
  match sprRow n with
  | some r => r.model
  | none => .refuse

/-- R172: a number with bit 4 set is accessible only in supervisor mode. -/
def sprPrivileged (n : BitVec 10) : Bool := n.getLsbD 4

/-- `mtspr` of this number has a meaning (R170). -/
def SprModel.writable : SprModel → Bool
  | .rw _ => true
  | .masked _ _ => true
  | .ro _ => false
  | .roPir => false
  | .roPvr => false
  | .refuse => false

/-- `mfspr` of this number has a meaning (R171). -/
def SprModel.readable : SprModel → Bool
  | .rw _ => true
  | .masked _ _ => true
  | .ro _ => true
  | .roPir => true
  | .roPvr => true
  | .refuse => false

end Sys2Proof.Machine
end

