-- ==== Sys2Proof/Machine/State.lean ====
section
/-!
DEFINITION. The state of the machine as plain data: every register, memory, the PIC, the pending conditions, and the
parameters.  INVENTORY.md, section State, lists each field with its rule and reset value.  After it the reasons a step can
stop, and the state right after reset (spec R260).
-/

namespace Sys2Proof.Machine

/-- Memory: (address, byte) pairs, addresses strictly rising; an unlisted address has no value (log 6). -/
abbrev Memory := List Host.Cell

/-- An external interrupt source of the PIC, IRQn (R246, R248, R250). -/
structure ExtSource where
  /-- PIC_EIVPRn without its read-only activity bit, which is computed. -/
  vpr : Word
  /-- PIC_EIDRn. -/
  dest : Word
  /-- The level of the pin: true is high. -/
  pin : Bool
  /-- An active edge has been seen and not acknowledged (edge-sensitive sources). -/
  edge : Bool
  /-- Acknowledged and not yet ended (R252). -/
  inService : Bool
  deriving DecidableEq, Repr

/-- An internal interrupt source of the PIC (R247, R248, R250): it has no sense bit. -/
structure IntSource where
  /-- PIC_IIVPRn without its read-only activity bit. -/
  vpr : Word
  /-- PIC_IIDRn. -/
  dest : Word
  /-- The level of the request input: true is high. -/
  pin : Bool
  /-- Acknowledged and not yet ended (R252). -/
  inService : Bool
  deriving DecidableEq, Repr

/-- The P2020 interrupt controller as far as the spec gives it (R245). -/
structure Pic where
  ext : Vector ExtSource 12
  int : Vector IntSource 64
  /-- PIC_IACK: what its last read returned (R245, R252; log 37). -/
  iack : Word
  deriving DecidableEq, Repr

/-- The pending conditions that come from outside the PIC (R54). -/
structure Pending where
  /-- `cint` as the environment drives it; the PIC's part is computed (R54, R248; log 31). -/
  critInt : Bool
  mc : Bool
  /-- Whether the pending machine check's error is recoverable (R220; log 15). -/
  mcRecoverable : Bool
  dec : Bool
  fit : Bool
  wd : Bool
  pm : Bool
  dbg : Bool
  deriving DecidableEq, Repr

/-- What the environment may do at a boundary (R7, R54). -/
inductive EnvEvent where
  /-- Drive the request input of a PIC source high or low (R250). -/
  | setPin (s : Source) (high : Bool)
  | setCritInt (level : Bool)
  | setMachineCheck (level recoverable : Bool)
  | setDecrementer (level : Bool)
  | setFixedInterval (level : Bool)
  | setWatchdog (level : Bool)
  | setPerformanceMonitor (level : Bool)
  | setDebug (level : Bool)
  /-- A read of PIC_IACK by an agent other than a program in scope, which has no load (R88, R252; log 30). -/
  | readIack
  /-- The end of service of a source; the register that does it is not in the spec (R252; log 30). -/
  | endOfService (s : Source)
  deriving DecidableEq, Repr

/-- One boundary's entry: the environment's events, in order, and whether the core takes a pending enabled interrupt
there (R213). -/
structure Boundary where
  events : List EnvEvent
  takes : Bool
  deriving DecidableEq, Repr

/-- The state. -/
structure State where
  /-- The parameters (R6); no step changes them. -/
  config : Config
  /-- GPR0 to GPR31 (R20). -/
  gpr : Vector Word 32
  /-- The program counter (R24). -/
  pc : Word
  /-- The condition register (R26). -/
  cr : Word
  /-- The link register (R27). -/
  lr : Word
  /-- The count register (R28). -/
  ctr : Word
  /-- The integer exception register (R29). -/
  xer : Word
  /-- The machine state register (R37). -/
  msr : Word
  /-- The interrupt vector prefix register (R42). -/
  ivpr : Word
  /-- IVOR0 to IVOR15 at 0 to 15, IVOR32 to IVOR35 at 16 to 19 (R43). -/
  ivor : Vector Word 20
  /-- Save/restore pair of the noncritical class (R45). -/
  srr0 : Word
  srr1 : Word
  /-- Save/restore pair of the critical class (R46). -/
  csrr0 : Word
  csrr1 : Word
  /-- Save/restore pair of the machine-check class (R46). -/
  mcsrr0 : Word
  mcsrr1 : Word
  /-- Exception syndrome, data exception address, machine check syndrome (R47). -/
  esr : Word
  dear : Word
  mcsr : Word
  /-- SPRG0 to SPRG7 (R48). -/
  sprg : Vector Word 8
  /-- USPRG0, SPR 256, which the figure calls VRSAVE (R30, R260); `mtspr` and `mfspr` of it are refused (R36). -/
  usprg0 : Word
  /-- DBCR0[IDM], the one named bit of the debug registers (R51, R212; log 32). -/
  dbcr0Idm : Bool
  /-- Memory (R80). -/
  mem : Memory
  /-- The addresses a `stwu` has written in this run (R98), strictly rising. -/
  stored : List Nat
  /-- The interrupt controller (R245). -/
  pic : Pic
  /-- The other pending conditions (R54). -/
  pend : Pending
  /-- The model's own: what happens at the coming boundaries (R213; log 12). -/
  inputs : List Boundary
  /-- The model's own: how many free values have been drawn (log 34). -/
  freeIx : Nat
  deriving DecidableEq, Repr

/-- The reasons a step stops with a fault. -/
inductive Fault where
  /-- Raised by the fetch of an instruction one of whose bytes has no value (R280(c), decision D19). Safe: the hardware
  would fetch something. -/
  | unwrittenByte (pc : Word)
  deriving DecidableEq, Repr

/-- The reasons a step is refused: the spec's `refuse(reason)` (R10), each where the spec gives the situation no meaning.
All are safe: the model stops where the hardware goes on or traps. -/
inductive Refusal where
  /-- Raised by an arm of `exec` whose instruction has no meaning yet. -/
  | notModelled (mnemonic : String)
  /-- Raised by a fetched word that matches no row of the opcode table (R124, R125). -/
  | instructionNotInSpec (w : Word)
  /-- Raised by the fetch of a word not wholly inside MEM_REGIONS (R83). -/
  | fetchOutsideMemory (pc : Word)
  /-- Raised by the fetch of a byte that a `stwu` of this run has written (R98). -/
  | fetchOfModifiedCode (pc : Word)
  /-- Raised by `stwu` with RA = 0 (R160, decision D23). -/
  | stwuInvalidForm
  /-- Raised by `stwu` to an address that is no multiple of 4 (R84). -/
  | misalignedStore (ea : Word)
  /-- Raised by `stwu` outside MEM_REGIONS and the PIC block (R90). -/
  | storeOutsideMemory (ea : Word)
  /-- Raised by `stwu` to PIC_IACK or to an address of the PIC block R245 does not list (R249). -/
  | picRegisterOutsideSpec (ea : Word)
  /-- Raised by `mtspr` of a number R36 refuses or gives as read-only (R170). -/
  | mtsprOutsideSpec (sprn : BitVec 10)
  /-- Raised by `mfspr` of a number R36 refuses (R171). -/
  | mfsprOutsideSpec (sprn : BitVec 10)
  /-- Raised by `mtmsr` and `rfi` when the value they would write has WE = 1 (R244). -/
  | msrWeSet
  deriving DecidableEq, Repr

/-- An external source at reset: PIC_EIVPRn = 8000_0000h, PIC_EIDRn = 0000_0001h, nothing pending (R260); the pin at
the inactive level of active-low. DESIGN CHOICE (log 28). -/
def ExtSource.reset : ExtSource where
  vpr := 0x80000000
  dest := 0x00000001
  pin := true
  edge := false
  inService := false

/-- An internal source at reset: PIC_IIVPRn = 8080_0000h, PIC_IIDRn = 0000_0001h, nothing pending (R260); the request
input at the inactive level of active-high. DESIGN CHOICE (log 28). -/
def IntSource.reset : IntSource where
  vpr := 0x80800000
  dest := 0x00000001
  pin := false
  inService := false

/-- The PIC at reset (R260). -/
def Pic.reset : Pic where
  ext := Vector.replicate 12 ExtSource.reset
  int := Vector.replicate 64 IntSource.reset
  iack := 0

/-- Nothing pending at reset (R260). -/
def Pending.reset : Pending where
  critInt := false
  mc := false
  mcRecoverable := false
  dec := false
  fit := false
  wd := false
  pm := false
  dbg := false

/-- The machine right after reset with given parameters (R260). MSR, the IVORs and the PIC registers hold the values
the spec states; every other register holds zero. DESIGN CHOICE, unsafe (log 1, log 34). -/
def State.resetWith (c : Config) : State where
  config := c
  gpr := Vector.replicate 32 0
  pc := c.resetPc
  cr := 0
  lr := 0
  ctr := 0
  xer := 0
  msr := 0
  ivpr := 0
  ivor := Vector.replicate 20 0
  srr0 := 0
  srr1 := 0
  csrr0 := 0
  csrr1 := 0
  mcsrr0 := 0
  mcsrr1 := 0
  esr := 0
  dear := 0
  mcsr := 0
  sprg := Vector.replicate 8 0
  usprg0 := 0
  dbcr0Idm := false
  mem := []
  stored := []
  pic := Pic.reset
  pend := Pending.reset
  inputs := []
  freeIx := 0

/-- The machine right after reset (R260), with the default parameters (log 2 to 5). -/
def State.reset : State := State.resetWith Config.default

end Sys2Proof.Machine
end

