-- ==== Sys2Proof/Machine/Ops.lean ====
section
/-!
DEFINITION. The named operations over registers and memory, and taking an interrupt and returning from one.  Every read
and write of a register, of memory and of the MSR goes through a definition of this file.
-/

namespace Sys2Proof.Machine

/-! ### General registers and the program counter -/

/-- `x[r]` (R10). -/
def State.reg (s : State) (r : Reg) : Word := s.gpr[r]

/-- `x[r] <- v` (R10); no register is hard-wired (R21). -/
def State.setReg (s : State) (r : Reg) (v : Word) : State := { s with gpr := s.gpr.set r v }

/-- The next instruction is at `pc + 4` modulo 2^32 (R25). -/
def State.advance (s : State) : State := { s with pc := s.pc + 4 }

/-- The address of the following instruction, `(pc + 4) mod 2^32`. -/
def State.nextPc (s : State) : Word := s.pc + 4

/-- An address with its two low bits replaced: `a[31:2] || 0b00` (R25). -/
def alignPc (a : Word) : Word := a.extractLsb' 2 30 ++ 0#2

/-! ### The machine state register -/

/-- MSR_WRITABLE (R40). -/
def msrWritable : Word := 0x0606FF34

/-- The mask of MSR[WE] (R38). -/
def msrWeMask : Word := 0x00040000

/-- MSR[PR] = MSR[49]: 1 is user mode (R38, R39). -/
def State.pr (s : State) : Bool := s.msr.getLsbD 14

/-- MSR[CE] = MSR[46] (R38). -/
def State.ce (s : State) : Bool := s.msr.getLsbD 17

/-- MSR[EE] = MSR[48] (R38). -/
def State.ee (s : State) : Bool := s.msr.getLsbD 15

/-- MSR[ME] = MSR[51] (R38). -/
def State.me (s : State) : Bool := s.msr.getLsbD 12

/-- MSR[DE] = MSR[54] (R38). -/
def State.de (s : State) : Bool := s.msr.getLsbD 9

/-- A value that would set MSR[WE], which the model refuses to write (R244). -/
def setsWe (v : Word) : Bool := v &&& msrWeMask != 0

/-- A write to the MSR stores `value & MSR_WRITABLE`; reserved bits read as 0 (R40). -/
def State.writeMsr (s : State) (v : Word) : State := { s with msr := v &&& msrWritable }

/-! ### Interrupt types -/

/-- The place of a type's IVOR among the twenty (R205, R206). -/
def ivorIndex : IntType → Fin 20
  | .criticalInput => 0
  | .machineCheck => 1
  | .dataStorage => 2
  | .instructionStorage => 3
  | .externalInput => 4
  | .alignment => 5
  | .program => 6
  | .fpUnavailable => 7
  | .systemCall => 8
  | .apUnavailable => 9
  | .decrementer => 10
  | .fixedInterval => 11
  | .watchdog => 12
  | .dataTlbError => 13
  | .instructionTlbError => 14
  | .debug => 15
  | .speUnavailable => 16
  | .embeddedFpData => 17
  | .embeddedFpRound => 18
  | .performanceMonitor => 19

/-- The save/restore pair a type uses (R207). -/
inductive IntClass where
  | noncritical
  | critical
  | machineCheck
  deriving DecidableEq, Repr

/-- R207: critical = IVOR0, IVOR12, IVOR15; machine check = IVOR1; the rest noncritical. -/
def intClass : IntType → IntClass
  | .criticalInput => .critical
  | .watchdog => .critical
  | .debug => .critical
  | .machineCheck => .machineCheck
  | .dataStorage => .noncritical
  | .instructionStorage => .noncritical
  | .externalInput => .noncritical
  | .alignment => .noncritical
  | .program => .noncritical
  | .fpUnavailable => .noncritical
  | .systemCall => .noncritical
  | .apUnavailable => .noncritical
  | .decrementer => .noncritical
  | .fixedInterval => .noncritical
  | .dataTlbError => .noncritical
  | .instructionTlbError => .noncritical
  | .speUnavailable => .noncritical
  | .embeddedFpData => .noncritical
  | .embeddedFpRound => .noncritical
  | .performanceMonitor => .noncritical

/-! ### Special-purpose registers -/

/-- IVORn of an interrupt type. -/
def State.ivorOf (s : State) (t : IntType) : Word := s.ivor[ivorIndex t]

/-- PVR: the constant of the core's version (R41). -/
def State.pvr (s : State) : Word :=
  match s.config.variant with
  | .e500v1 => 0x80200010
  | .e500v2 => 0x80210010

/-- PIR: the constant CORE_ID (R53). -/
def State.pir (s : State) : Word := s.config.coreId

/-- The stored content of an admitted SPR. -/
def State.spr (s : State) : SprReg → Word
  | .xer => s.xer
  | .lr => s.lr
  | .ctr => s.ctr
  | .srr0 => s.srr0
  | .srr1 => s.srr1
  | .csrr0 => s.csrr0
  | .csrr1 => s.csrr1
  | .mcsrr0 => s.mcsrr0
  | .mcsrr1 => s.mcsrr1
  | .dear => s.dear
  | .esr => s.esr
  | .ivpr => s.ivpr
  | .ivor t => s.ivorOf t
  | .sprg n => s.sprg[n]

/-- Write an admitted SPR whole (masks are the table's, R36). -/
def State.setSpr (s : State) (r : SprReg) (v : Word) : State :=
  match r with
  | .xer => { s with xer := v }
  | .lr => { s with lr := v }
  | .ctr => { s with ctr := v }
  | .srr0 => { s with srr0 := v }
  | .srr1 => { s with srr1 := v }
  | .csrr0 => { s with csrr0 := v }
  | .csrr1 => { s with csrr1 := v }
  | .mcsrr0 => { s with mcsrr0 := v }
  | .mcsrr1 => { s with mcsrr1 := v }
  | .dear => { s with dear := v }
  | .esr => { s with esr := v }
  | .ivpr => { s with ivpr := v }
  | .ivor t => { s with ivor := s.ivor.set (ivorIndex t) v }
  | .sprg n => { s with sprg := s.sprg.set n v }

/-! ### Taking an interrupt, and returning from one -/

/-- `vector(n) = IVPR[31:16] || IVORn[15:4] || 0b0000`, read when the interrupt is taken (R210). -/
def State.vector (s : State) (t : IntType) : Word :=
  s.ivpr.extractLsb' 16 16 ++ (s.ivorOf t).extractLsb' 4 12 ++ 0#4

/-- What noncritical entry keeps of the MSR: CE, ME, DE (R215, R217). -/
def msrKeptNoncritical : Word := 0x00021200

/-- What critical entry keeps of the MSR: ME (R219). -/
def msrKeptCritical : Word := 0x00001000

/-- Entry to a noncritical-class interrupt (R215): SRR0, SRR1, MSR, ESR for the types that set it, pc. -/
def State.enterNoncritical (s : State) (t : IntType) (ret : Word) (syndrome : Option Word) : State :=
  { s with srr0 := ret, srr1 := s.msr, msr := s.msr &&& msrKeptNoncritical,
           esr := syndrome.getD s.esr, pc := s.vector t }

/-- Entry to a critical-class interrupt (R219): CSRR0, CSRR1, MSR, pc. -/
def State.enterCritical (s : State) (t : IntType) (ret : Word) : State :=
  { s with csrr0 := ret, csrr1 := s.msr, msr := s.msr &&& msrKeptCritical, pc := s.vector t }

/-- What machine-check entry leaves in MCSRR0: the return address if the error is recoverable, else an instruction
address the spec does not give, a free value (R220; log 15). -/
def State.mcheckAddress (s : State) (ret : Word) : Word :=
  if s.pend.mcRecoverable then ret else alignPc (Config.freeAddress s.freeIx)

/-- Entry to the machine-check interrupt (R220): MCSRR0, MCSRR1, MSR all zero, MCSR a free value (log 15), pc. -/
def State.enterMachineCheck (s : State) (t : IntType) (ret : Word) : State :=
  { s with mcsrr0 := s.mcheckAddress ret, mcsrr1 := s.msr, msr := 0,
           mcsr := Config.freeMcsr s.freeIx, pc := s.vector t, freeIx := s.freeIx + 1 }

/-- TAKING AN INTERRUPT of type `t` with return address `ret` (R215, R219, R220), by the class of the type (R207). -/
def State.takeInterrupt (s : State) (t : IntType) (ret : Word) (syndrome : Option Word) : State :=
  match intClass t with
  | .noncritical => s.enterNoncritical t ret syndrome
  | .critical => s.enterCritical t ret
  | .machineCheck => s.enterMachineCheck t ret

/-- ESR[PPR], "privileged instruction" (R221). -/
def esrPrivileged : Word := 0x04000000

/-- The Program interrupt of a privileged instruction in user mode: SRR0 is the instruction itself (R172, R216, R221). -/
def State.privilegedProgram (s : State) : State := s.takeInterrupt .program s.pc (some esrPrivileged)

/-- The System call interrupt: SRR0 is the instruction after the `sc`, ESR is left (R175, R216, R221). -/
def State.systemCall (s : State) : State := s.takeInterrupt .systemCall s.nextPc none

/-- Returning from a noncritical interrupt: MSR from SRR1, pc from SRR0 (R176, R225). -/
def State.returnFromInterrupt (s : State) : State :=
  { s.writeMsr s.srr1 with pc := alignPc s.srr0 }

/-! ### Memory -/

/-- The canonical form of memory: addresses strictly rising and inside the 2^32 bytes of R80. -/
def Memory.wf : Memory → Bool
  | [] => true
  | [(a, _)] => a < 2 ^ 32
  | (a, _) :: (b, v) :: rest => a < b && Memory.wf ((b, v) :: rest)

/-- The byte at an address; none where nothing has been placed or written (log 6). -/
def Memory.readByte : Memory → Nat → Option Byte
  | [], _ => none
  | (k, v) :: rest, a => if a = k then some v else Memory.readByte rest a

/-- Write one byte, keeping the addresses strictly rising. -/
def Memory.writeByte : Memory → Nat → Byte → Memory
  | [], a, v => [(a, v)]
  | (k, w) :: rest, a, v =>
    if a < k then (a, v) :: (k, w) :: rest
    else if a = k then (a, v) :: rest
    else (k, w) :: Memory.writeByte rest a v

/-- The address of byte `i` of an access at `a`, modulo 2^32 (R81). -/
def byteAddr (a : Word) (i : Nat) : Nat := (a + BitVec.ofNat 32 i).toNat

/-- `MemRead(a, 4)`, big-endian (R81); none where a byte has no value. -/
def Memory.readWord (m : Memory) (a : Word) : Option Word :=
  match Memory.readByte m (byteAddr a 0), Memory.readByte m (byteAddr a 1),
      Memory.readByte m (byteAddr a 2), Memory.readByte m (byteAddr a 3) with
  | some b0, some b1, some b2, some b3 => some (wordOfBytes b0 b1 b2 b3)
  | _, _, _, _ => none

/-- `MemWrite(a, 4, v)`, big-endian (R81). -/
def Memory.writeWord (m : Memory) (a v : Word) : Memory :=
  Memory.writeByte (Memory.writeByte (Memory.writeByte (Memory.writeByte m
    (byteAddr a 0) (v.extractLsb' 24 8)) (byteAddr a 1) (v.extractLsb' 16 8))
    (byteAddr a 2) (v.extractLsb' 8 8)) (byteAddr a 3) (v.extractLsb' 0 8)

/-- A strictly rising list of addresses inside the address space. -/
def addrsWf : List Nat → Bool
  | [] => true
  | [a] => a < 2 ^ 32
  | a :: b :: rest => a < b && addrsWf (b :: rest)

/-- Add an address to a strictly rising list. -/
def addAddr : List Nat → Nat → List Nat
  | [], a => [a]
  | k :: rest, a => if a < k then a :: k :: rest else if a = k then k :: rest else k :: addAddr rest a

/-- Add the four bytes of a word access. -/
def addWordAddrs (l : List Nat) (a : Word) : List Nat :=
  addAddr (addAddr (addAddr (addAddr l (byteAddr a 0)) (byteAddr a 1)) (byteAddr a 2)) (byteAddr a 3)

/-- An address is one of the four bytes of a word access. -/
def isWordByte (a : Word) (x : Nat) : Bool :=
  x == byteAddr a 0 || x == byteAddr a 1 || x == byteAddr a 2 || x == byteAddr a 3

/-- A store of a word to ordinary memory (R90): the bytes, and the record of what has been written (R98). -/
def State.storeMem (s : State) (a v : Word) : State :=
  { s with mem := Memory.writeWord s.mem a v, stored := addWordAddrs s.stored a }

/-! ### The address map -/

/-- An address lies in a region. -/
def regionHas (r : Region) (a : Nat) : Bool := r.base ≤ a && a < r.base + r.size

/-- The offset of an address from CCSRBAR, modulo 2^32 (R245). -/
def picOffset (c : Config) (a : Word) : Nat := (a - c.ccsrbar).toNat

/-- The PIC block: offsets 4_0000h to 5_FFFFh (R245). DESIGN CHOICE: the spec gives its start, not its end (log 26). -/
def inPicBlock (c : Config) (a : Word) : Bool := 0x40000 ≤ picOffset c a && picOffset c a < 0x60000

/-- A byte of ordinary memory: in MEM_REGIONS, which by its definition holds no device register (R6, R88; log 26). -/
def isMemByte (c : Config) (a : Word) : Bool :=
  c.memRegions.any (fun r => regionHas r a.toNat) && !inPicBlock c a

/-- The four bytes of a word access are ordinary memory (R83, R90). -/
def isMemWord (c : Config) (a : Word) : Bool :=
  isMemByte c a && isMemByte c (a + 1) && isMemByte c (a + 2) && isMemByte c (a + 3)

/-- A multiple of 4 (R84). -/
def isAligned (a : Word) : Bool := a.extractLsb' 0 2 == 0

end Sys2Proof.Machine
end

