-- ==== Sys2Proof/Machine/Operands.lean ====
section
/-!
DEFINITION. How each operand is formed from instruction fields (spec R119), the rotate and mask primitives (R10), and the
places a store can go (R90, R245, R249).
-/

namespace Sys2Proof.Machine

/-! ### Immediates and base registers -/

/-- RA of `addi` and `addis`: the constant 0 when RA = 0, never `x[0]` (R119, R140). -/
def State.raOrZero (s : State) (ra : Reg) : Word := if ra = 0 then 0 else s.reg ra

/-- SI of `addi`, D of `stwu`: `sext_32(w[15:0])` (R119). -/
def signedImm (i : BitVec 16) : Word := i.signExtend 32

/-- SI of `addis`: `w[15:0] || 0x0000` (R119). -/
def shiftedImm (i : BitVec 16) : Word := i ++ 0#16

/-- UI of `ori`: `zext_32(w[15:0])` (R119). -/
def unsignedImm (i : BitVec 16) : Word := i.zeroExtend 32

/-- LI of a branch: `sext_32(w[25:2] || 0b00)` (R119). -/
def branchDisp (li : BitVec 24) : Word := (li ++ 0#2).signExtend 32

/-- The effective address of `stwu`: `(x[RA] + sext_32(D)) mod 2^32` (R160). -/
def State.effectiveAddress (s : State) (ra : Reg) (d : BitVec 16) : Word := s.reg ra + signedImm d

/-! ### Rotate and mask -/

/-- `ROTL32(v, n)` (R10). -/
def rotl32 (v : Word) (n : Fin 32) : Word := v <<< n.val ||| v >>> (32 - n.val)

/-- `MASK(mb, me)` in IBM-32 positions (R10): `ones from mb on` and `ones up to me`, met when mb <= me and joined when
the mask wraps. -/
def mask32 (mb me : Fin 32) : Word :=
  if mb ≤ me then (BitVec.allOnes 32 >>> mb.val) &&& (BitVec.allOnes 32 <<< (31 - me.val))
  else (BitVec.allOnes 32 >>> mb.val) ||| (BitVec.allOnes 32 <<< (31 - me.val))

/-! ### Where a store goes -/

/-- The registers of the PIC the spec gives (R245). -/
inductive PicReg where
  | iack
  | eivpr (n : Fin 12)
  | eidr (n : Fin 12)
  | iivpr (n : Fin 64)
  | iidr (n : Fin 64)
  deriving DecidableEq, Repr

/-- The offset of a PIC register from CCSRBAR (R245). -/
def picRegOffset : PicReg → Nat
  | .iack => 0x400A0
  | .eivpr n => 0x50000 + 0x20 * n.val
  | .eidr n => 0x50010 + 0x20 * n.val
  | .iivpr n => 0x50200 + 0x20 * n.val
  | .iidr n => 0x50210 + 0x20 * n.val

/-- All the PIC registers of R245. -/
def picRegs : List PicReg :=
  .iack :: (List.ofFn (fun n => PicReg.eivpr n) ++ List.ofFn (fun n => PicReg.eidr n) ++
    List.ofFn (fun n => PicReg.iivpr n) ++ List.ofFn (fun n => PicReg.iidr n))

/-- The PIC register at an offset, if R245 lists one there. -/
def picRegAt (off : Nat) : Option PicReg := picRegs.find? (fun r => picRegOffset r == off)

/-- What a word store to an aligned address does. -/
inductive StoreTarget where
  | memory
  | pic (r : PicReg)
  | refused (r : Refusal)
  deriving DecidableEq, Repr

/-- R90, R249: a listed PIC register but PIC_IACK takes the word; any other address of the PIC block is refused; a word
wholly in MEM_REGIONS is a memory store; any other address is refused. -/
def storeTarget (c : Config) (ea : Word) : StoreTarget :=
  if inPicBlock c ea then
    match picRegAt (picOffset c ea) with
    | some .iack => .refused (.picRegisterOutsideSpec ea)
    | some r => .pic r
    | none => .refused (.picRegisterOutsideSpec ea)
  else if isMemWord c ea then .memory
  else .refused (.storeOutsideMemory ea)

end Sys2Proof.Machine
end

