-- ==== Sys2Proof/Machine/Pic.lean ====
section
/-!
DEFINITION. The P2020 interrupt controller (spec R245 to R252): its register fields, its outputs `int`, `cint` and IRQ_OUT,
writes to its registers, and a read of PIC_IACK.
-/

namespace Sys2Proof.Machine

/-! ### Fields of the registers -/

/-- MSK: `[31]`, 1 masks the source (R246). -/
def vprMasked (v : Word) : Bool := v.getLsbD 31

/-- P: `[23]`, 1 is active-high (R246). -/
def vprActiveHigh (v : Word) : Bool := v.getLsbD 23

/-- S: `[22]`, 1 is level-sensitive, of external sources only (R246, R247). -/
def vprLevel (v : Word) : Bool := v.getLsbD 22

/-- PRIORITY: `[19:16]`, 15 the highest, 0 disables (R246). -/
def vprPriority (v : Word) : BitVec 4 := v.extractLsb' 16 4

/-- VECTOR: `[15:0]` (R246). -/
def vprVector (v : Word) : BitVec 16 := v.extractLsb' 0 16

/-- The writable fields of PIC_EIVPRn: MSK, P, S, PRIORITY, VECTOR (R246, R249). -/
def eivprMask : Word := 0x80CFFFFF

/-- The writable fields of PIC_IIVPRn: as PIC_EIVPRn without S (R247, R249). -/
def iivprMask : Word := 0x808FFFFF

/-- The destination bits EP, CI, P1, P0 (R248, R249). -/
def destMask : Word := 0xC0000003

/-- The destination selects a core's `int`: P0 `[0]` core 0, P1 `[1]` core 1 (R248). -/
def destSelects (dest coreId : Word) : Bool :=
  (coreId == 0 && dest.getLsbD 0) || (coreId == 1 && dest.getLsbD 1)

/-- CI: `[30]`, the destination directs the source to the core's `cint` (R248). -/
def destCritical (dest : Word) : Bool := dest.getLsbD 30

/-- EP: `[31]`, the destination directs the source to the external pin IRQ_OUT (R248). -/
def destExternal (dest : Word) : Bool := dest.getLsbD 31

/-! ### Sources -/

/-- Every source: IRQ0 to IRQ11, then internal 0 to 63. -/
def allSources : List Source :=
  List.ofFn (fun n => Source.ext n) ++ List.ofFn (fun n => Source.int n)

/-- A source's vector/priority register, without its activity bit. -/
def Pic.vpr (p : Pic) : Source → Word
  | .ext n => p.ext[n].vpr
  | .int n => p.int[n].vpr

/-- A source's destination register. -/
def Pic.dest (p : Pic) : Source → Word
  | .ext n => p.ext[n].dest
  | .int n => p.int[n].dest

/-- A source is in service (R54, R252). -/
def Pic.inService (p : Pic) : Source → Bool
  | .ext n => p.ext[n].inService
  | .int n => p.int[n].inService

/-- Internal interrupt 11 is reserved and never requests (R254; 93_implementation_defined.md item 9). -/
def isReserved : Source → Bool
  | .ext _ => false
  | .int n => n == 11

/-- An external source requests (R250): asserted in its active polarity if level-sensitive, else its latched edge. -/
def ExtSource.pending (x : ExtSource) : Bool :=
  if vprLevel x.vpr then x.pin == vprActiveHigh x.vpr else x.edge

/-- An internal source requests: asserted in its active polarity. PRESUMED level-sensitive, for want of a sense bit
(R247; log 28). -/
def IntSource.pending (x : IntSource) : Bool := x.pin == vprActiveHigh x.vpr

/-- `pending[s]` (R54, R250). -/
def Pic.pending (p : Pic) (s : Source) : Bool :=
  !isReserved s &&
    match s with
    | .ext n => p.ext[n].pending
    | .int n => p.int[n].pending

/-- *Eligible*: pending, MSK = 0 and PRIORITY > 0 (R250). -/
def Pic.eligible (p : Pic) (s : Source) : Bool :=
  p.pending s && !vprMasked (p.vpr s) && vprPriority (p.vpr s) != 0

/-- The eligible sources that select the modelled core. -/
def Pic.requests (c : Config) (p : Pic) : List Source :=
  allSources.filter (fun s => p.eligible s && destSelects (p.dest s) c.coreId)

/-- The open comparisons of R251: the priority exceeds the task priority and, if in-service sources mask, theirs. With
the default parameters this holds of every eligible source, which is R251's own reading (log 29). -/
def Pic.outranks (c : Config) (p : Pic) (s : Source) : Bool :=
  vprPriority (p.vpr s) > c.taskPriority &&
    (!c.inServiceMasks ||
      allSources.all (fun t => !p.inService t || vprPriority (p.vpr s) > vprPriority (p.vpr t)))

/-- `ext_int`: the level of the PIC's `int` output to the modelled core (R54, R251). -/
def Pic.extInt (c : Config) (p : Pic) : Bool := (Pic.requests c p).any (Pic.outranks c p)

/-- The level of the PIC's `cint` output to the modelled core: some eligible source is directed there (R248, R208). The
comparisons R251 leaves open are of `int` alone (log 31). -/
def Pic.critOut (p : Pic) : Bool := allSources.any (fun s => p.eligible s && destCritical (p.dest s))

/-- The level of the external pin IRQ_OUT: some eligible source is directed there (R248). It leaves the machine. -/
def Pic.irqOut (p : Pic) : Bool := allSources.any (fun s => p.eligible s && destExternal (p.dest s))

/-! ### Writes to the registers -/

/-- A word store to a PIC register replaces its writable fields; the others read as 0 (R249; 93_implementation_defined.md
item 8). PIC_IACK is not writable (R249) and keeps its content. -/
def Pic.write (p : Pic) (r : PicReg) (v : Word) : Pic :=
  match r with
  | .iack => p
  | .eivpr n => { p with ext := p.ext.set n { p.ext[n] with vpr := v &&& eivprMask } }
  | .eidr n => { p with ext := p.ext.set n { p.ext[n] with dest := v &&& destMask } }
  | .iivpr n => { p with int := p.int.set n { p.int[n] with vpr := v &&& iivprMask } }
  | .iidr n => { p with int := p.int.set n { p.int[n] with dest := v &&& destMask } }

/-- The activity bit A, `[30]`: the source is requesting or in service (R246). -/
def Pic.activity (p : Pic) (s : Source) : Word :=
  if p.pending s || p.inService s then 0x40000000 else 0

/-- The content of a PIC register as the spec gives it: a vector/priority register with its computed activity bit. -/
def Pic.content (p : Pic) : PicReg → Word
  | .iack => p.iack
  | .eivpr n => p.vpr (.ext n) ||| p.activity (.ext n)
  | .eidr n => p.dest (.ext n)
  | .iivpr n => p.vpr (.int n) ||| p.activity (.int n)
  | .iidr n => p.dest (.int n)

/-! ### Interrupt acknowledge (R252) -/

/-- No request has a higher PRIORITY. -/
def Pic.isHighest (c : Config) (p : Pic) (s : Source) : Bool :=
  (Pic.requests c p).all (fun t => vprPriority (p.vpr t) ≤ vprPriority (p.vpr s))

/-- The eligible source of highest PRIORITY that selects the modelled core; among equals the first of the parameter
`tieOrder` (R252; log 30). -/
def Pic.highest (c : Config) (p : Pic) : Option Source :=
  (c.tieOrder ++ allSources).find? (fun s => (Pic.requests c p).contains s && Pic.isHighest c p s)

/-- What a read of PIC_IACK returns: `0x0000 || VECTOR[s]`, or the spurious vector (R252). -/
def Pic.iackValue (c : Config) (p : Pic) : Word :=
  match Pic.highest c p with
  | some s => 0#16 ++ vprVector (p.vpr s)
  | none => 0#16 ++ c.spuriousVector

/-- The acknowledgement of a source: in service, its latched edge cleared (R252). -/
def Pic.acknowledge (p : Pic) : Source → Pic
  | .ext n => { p with ext := p.ext.set n { p.ext[n] with inService := true, edge := false } }
  | .int n => { p with int := p.int.set n { p.int[n] with inService := true } }

/-- A read of PIC_IACK (R252): its value, and the PIC after it. -/
def Pic.readIack (c : Config) (p : Pic) : Word × Pic :=
  let q := match Pic.highest c p with
    | some s => if c.iackAcknowledges then p.acknowledge s else p
    | none => p
  (Pic.iackValue c p, { q with iack := Pic.iackValue c p })

/-- The end of a source's service (R252). -/
def Pic.endService (p : Pic) : Source → Pic
  | .ext n => { p with ext := p.ext.set n { p.ext[n] with inService := false } }
  | .int n => { p with int := p.int.set n { p.int[n] with inService := false } }

/-! ### Request inputs (R250) -/

/-- A new pin level of an external source: an edge from inactive to active is latched (R250; log 28). -/
def ExtSource.setPin (x : ExtSource) (high : Bool) : ExtSource :=
  let active := vprActiveHigh x.vpr
  { x with pin := high, edge := x.edge || (!vprLevel x.vpr && x.pin != active && high == active) }

/-- Drive a source's request input. -/
def Pic.setPin (p : Pic) (high : Bool) : Source → Pic
  | .ext n => { p with ext := p.ext.set n (p.ext[n].setPin high) }
  | .int n => { p with int := p.int.set n { p.int[n] with pin := high } }

end Sys2Proof.Machine
end

