-- ==== Sys2Proof/Machine/Boundary.lean ====
section
/-!
DEFINITION. An instruction boundary (spec R212 to R216): the environment's events land, the core samples the pending and
enabled conditions, and either takes one asynchronous interrupt or goes on to an instruction.
-/

namespace Sys2Proof.Machine

/-- The interrupt type of an asynchronous condition (R205, R206, R212). -/
def asyncType : AsyncInt → IntType
  | .machineCheck => .machineCheck
  | .debug => .debug
  | .criticalInput => .criticalInput
  | .watchdog => .watchdog
  | .externalInput => .externalInput
  | .fixedInterval => .fixedInterval
  | .decrementer => .decrementer
  | .performanceMonitor => .performanceMonitor

/-- Every asynchronous condition, in the default order of R214. -/
def allAsync : List AsyncInt := Config.defaultPriority

/-- The "enabled when" column of R212. -/
def State.enabled (s : State) : AsyncInt → Bool
  | .criticalInput => s.ce
  | .watchdog => s.ce
  | .externalInput => s.ee
  | .decrementer => s.ee
  | .fixedInterval => s.ee
  | .performanceMonitor => s.ee
  | .machineCheck => s.me
  | .debug => s.de && s.dbcr0Idm

/-- The "pending state" column of R212. `crit_int`, which R54 gives to the PIC and the environment, is asserted by the
environment or by a source whose CI bit directs it to `cint` (R248; log 31). -/
def State.pending (s : State) : AsyncInt → Bool
  | .criticalInput => s.pend.critInt || s.pic.critOut
  | .watchdog => s.pend.wd
  | .externalInput => Pic.extInt s.config s.pic
  | .decrementer => s.pend.dec
  | .fixedInterval => s.pend.fit
  | .performanceMonitor => s.pend.pm
  | .machineCheck => s.pend.mc
  | .debug => s.pend.dbg

/-- The condition that may be taken: the first of INT_PRIORITY that is enabled and pending (R212, R214). Conditions the
parameter does not list come after it, in the default order (log 13). -/
def State.candidate (s : State) : Option AsyncInt :=
  (s.config.intPriority ++ allAsync).find? (fun a => s.enabled a && s.pending a)

/-- One event of the environment (R54, R250, R252). -/
def State.applyEvent (s : State) : EnvEvent → State
  | .setPin src high => { s with pic := s.pic.setPin high src }
  | .setCritInt l => { s with pend := { s.pend with critInt := l } }
  | .setMachineCheck l rec => { s with pend := { s.pend with mc := l, mcRecoverable := rec } }
  | .setDecrementer l => { s with pend := { s.pend with dec := l } }
  | .setFixedInterval l => { s with pend := { s.pend with fit := l } }
  | .setWatchdog l => { s with pend := { s.pend with wd := l } }
  | .setPerformanceMonitor l => { s with pend := { s.pend with pm := l } }
  | .setDebug l => { s with pend := { s.pend with dbg := l } }
  | .readIack => { s with pic := (Pic.readIack s.config s.pic).2 }
  | .endOfService src => { s with pic := s.pic.endService src }

/-- The events of a boundary, in order. -/
def State.applyEvents (s : State) : List EnvEvent → State
  | [] => s
  | e :: es => (s.applyEvent e).applyEvents es

/-- The environment's entry for this boundary is used up: its events have landed. Beyond the list nothing happens. -/
def State.arrive (s : State) : State :=
  match s.inputs with
  | [] => s
  | b :: rest => { s with inputs := rest }.applyEvents b.events

/-- Taking an asynchronous interrupt: the return address is the `pc` at the boundary (R216); ESR is left (R221). The
condition stays pending (R213). -/
def State.takeAsync (s : State) (a : AsyncInt) : State := s.takeInterrupt (asyncType a) s.pc none

/-- What the core does at a boundary. -/
inductive AtBoundary where
  /-- Take this interrupt from this state. -/
  | interrupt (a : AsyncInt) (s : State)
  /-- Execute the next instruction from this state. -/
  | run (s : State)
  deriving DecidableEq, Repr

/-- R213: if a condition is pending and enabled the core takes one or executes the next instruction; the entry of
`inputs` says which, and beyond the list a free value does (log 12). -/
def boundary (s : State) : AtBoundary :=
  match s.arrive.candidate, s.inputs with
  | none, _ => .run s.arrive
  | some a, b :: _ => if b.takes then .interrupt a s.arrive else .run s.arrive
  | some a, [] =>
    if Config.takesInterrupt s.freeIx then .interrupt a { s with freeIx := s.freeIx + 1 }
    else .run { s with freeIx := s.freeIx + 1 }

end Sys2Proof.Machine
end

