-- ==== Sys2Proof/Machine/Flags.lean ====
section
/-!
DEFINITION. The condition register: recording a result in cr0 (spec R144), testing a CR bit (R26), and the conditions of
the BO field of `bclr` (R151, R152).  No instruction in scope computes an XER bit (R29).
-/

namespace Sys2Proof.Machine

/-- XER[SO] = XER[32] (R29). -/
def State.so (s : State) : Bool := s.xer.getLsbD 31

/-- LT, GT, EQ, SO of a result, from the most significant (R144). -/
def cr0Of (v : Word) (so : Bool) : BitVec 4 :=
  BitVec.ofBool (v.getLsbD 31) ++ BitVec.ofBool (!v.getLsbD 31 && v != 0) ++ BitVec.ofBool (v == 0) ++
    BitVec.ofBool so

/-- `record_cr0(v)`: cr0 from the result, `CR[27:0]` unchanged (R144). -/
def State.recordCr0 (s : State) (v : Word) : State :=
  { s with cr := cr0Of v s.so ++ s.cr.extractLsb' 0 28 }

/-- CR bit BI, an IBM-32 position: `CR[31 - BI]` (R26). -/
def State.crBit (s : State) (bi : Fin 32) : Bool := s.cr.getLsbD (31 - bi.val)

/-- BO asks for the CTR to be decremented: `BO[2] = 0` (R151). -/
def boDecrements (bo : BitVec 5) : Bool := !bo.getLsbD 2

/-- The CTR after a `bclr`: decremented modulo 2^32 when `BO[2] = 0` (R151). -/
def State.ctrAfter (s : State) (bo : BitVec 5) : Word := if boDecrements bo then s.ctr - 1 else s.ctr

/-- `ctr_ok`: `BO[2] = 1`, or the new CTR is nonzero exactly when `BO[1] = 0` (R151). -/
def State.ctrOk (s : State) (bo : BitVec 5) : Bool :=
  bo.getLsbD 2 || ((s.ctrAfter bo != 0) ^^ bo.getLsbD 1)

/-- `cond_ok`: `BO[4] = 1`, or CR bit BI equals `BO[3]` (R151). -/
def State.condOk (s : State) (bo : BitVec 5) (bi : Fin 32) : Bool :=
  bo.getLsbD 4 || (s.crBit bi == bo.getLsbD 3)

end Sys2Proof.Machine
end

