-- ==== Sys2Proof/Machine/Branch.lean ====
section
/-! DEFINITION. The branch instructions (spec R150 to R153). Neither is privileged, neither raises an interrupt. -/

namespace Sys2Proof.Machine

/-- LK = 1: LR receives the address of the following instruction (R150, R151). -/
def State.link (s : State) (lk : Bool) : State := if lk then { s with lr := s.nextPc } else s

/-- R150: the target is the displacement itself with AA, else relative to the branch's own address. -/
def execB (li : BitVec 24) (aa lk : Bool) (s : State) : Host.Outcome State Fault Refusal :=
  let target := if aa then branchDisp li else s.pc + branchDisp li
  .next { s.link lk with pc := target }

/-- R151: the target is the LR before the instruction; the CTR is decremented and LR linked whether or not the branch is
taken. -/
def execBclr (bo : BitVec 5) (bi : Fin 32) (lk : Bool) (s : State) : Host.Outcome State Fault Refusal :=
  let target := alignPc s.lr
  let taken := s.ctrOk bo && s.condOk bo bi
  .next { s.link lk with ctr := s.ctrAfter bo, pc := if taken then target else s.nextPc }

end Sys2Proof.Machine
end

