-- ==== Sys2Proof/Machine/Integer.lean ====
section
/-! DEFINITION. The integer instructions (spec R140 to R145). None is privileged, none raises an interrupt. -/

namespace Sys2Proof.Machine

/-- R140: `x[RT] <- (RA = 0 ? 0 : x[RA]) + sext_32(SI)`. -/
def execAddi (rt ra : Reg) (si : BitVec 16) (s : State) : Host.Outcome State Fault Refusal :=
  .next (s.setReg rt (s.raOrZero ra + signedImm si)).advance

/-- R141: `x[RT] <- (RA = 0 ? 0 : x[RA]) + (SI || 0x0000)`. -/
def execAddis (rt ra : Reg) (si : BitVec 16) (s : State) : Host.Outcome State Fault Refusal :=
  .next (s.setReg rt (s.raOrZero ra + shiftedImm si)).advance

/-- R142: `x[RA] <- x[RS] | zext_32(UI)`. -/
def execOri (rs ra : Reg) (ui : BitVec 16) (s : State) : Host.Outcome State Fault Refusal :=
  .next (s.setReg ra (s.reg rs ||| unsignedImm ui)).advance

/-- The result of `rlwinm`: `ROTL32(x[RS], SH) & MASK(MB, ME)` (R143). -/
def State.rlwinmResult (s : State) (rs : Reg) (sh mb me : Fin 32) : Word :=
  rotl32 (s.reg rs) sh &&& mask32 mb me

/-- R143: the result to RA; with Rc also recorded in cr0 (R144). -/
def execRlwinm (rs ra : Reg) (sh mb me : Fin 32) (rc : Bool) (s : State) : Host.Outcome State Fault Refusal :=
  let v := s.rlwinmResult rs sh mb me
  let t := (s.setReg ra v).advance
  .next (if rc then t.recordCr0 v else t)

end Sys2Proof.Machine
end

