-- ==== Sys2Proof/Machine/LoadStore.lean ====
section
/-! DEFINITION. The store instruction (spec R160), with the address map of R90 and the PIC registers of R249. -/

namespace Sys2Proof.Machine

/-- A word store to an aligned address, admitted by R90: to memory, to a PIC register, or refused. -/
def storeWord (ea v : Word) (s : State) : Host.Outcome State Fault Refusal :=
  match storeTarget s.config ea with
  | .memory => .next (s.storeMem ea v)
  | .pic r => .next { s with pic := s.pic.write r v }
  | .refused r => .refused r

/-- R160: the effective address is computed first, the store uses it and the value of RS before the instruction, and RA
receives it; a refused access changes nothing. -/
def execStwu (rs ra : Reg) (d : BitVec 16) (s : State) : Host.Outcome State Fault Refusal :=
  if ra = 0 then .refused .stwuInvalidForm
  else
    let ea := s.effectiveAddress ra d
    if !isAligned ea then .refused (.misalignedStore ea)
    else
      match storeWord ea (s.reg rs) s with
      | .next t => .next (t.setReg ra ea).advance
      | .fault f => .fault f
      | .refused r => .refused r

end Sys2Proof.Machine
end

