-- ==== Sys2Proof/Machine/System.lean ====
section
/-!
DEFINITION. The system instructions (spec R170 to R176): the special-purpose registers, the MSR, `sc` and `rfi`.  A
privileged form in user mode takes the Program interrupt (R172), which is checked before anything else.
-/

namespace Sys2Proof.Machine

/-- R170: privilege by bit 4 of the number, then the "model" column of R36; a masked register keeps only its mask. -/
def execMtspr (sprn : BitVec 10) (rs : Reg) (s : State) : Host.Outcome State Fault Refusal :=
  if sprPrivileged sprn && s.pr then .next s.privilegedProgram
  else
    match sprModel sprn with
    | .rw r => .next (s.setSpr r (s.reg rs)).advance
    | .masked r m => .next (s.setSpr r (s.reg rs &&& m)).advance
    | .ro _ => .refused (.mtsprOutsideSpec sprn)
    | .roPir => .refused (.mtsprOutsideSpec sprn)
    | .roPvr => .refused (.mtsprOutsideSpec sprn)
    | .refuse => .refused (.mtsprOutsideSpec sprn)

/-- R171: privilege by bit 4 of the number, then the value of the SPR, or for the read-only rows the constant or the
register it names. -/
def execMfspr (rt : Reg) (sprn : BitVec 10) (s : State) : Host.Outcome State Fault Refusal :=
  if sprPrivileged sprn && s.pr then .next s.privilegedProgram
  else
    match sprModel sprn with
    | .rw r => .next (s.setReg rt (s.spr r)).advance
    | .masked r _ => .next (s.setReg rt (s.spr r)).advance
    | .ro r => .next (s.setReg rt (s.spr r)).advance
    | .roPir => .next (s.setReg rt s.pir).advance
    | .roPvr => .next (s.setReg rt s.pvr).advance
    | .refuse => .refused (.mfsprOutsideSpec sprn)

/-- R173: in supervisor mode `MSR <- x[RS] & MSR_WRITABLE`; a value with WE = 1 is refused (R244). -/
def execMtmsr (rs : Reg) (s : State) : Host.Outcome State Fault Refusal :=
  if s.pr then .next s.privilegedProgram
  else if setsWe (s.reg rs) then .refused .msrWeSet
  else .next (s.writeMsr (s.reg rs)).advance

/-- R174: in supervisor mode `x[RT] <- MSR`. -/
def execMfmsr (rt : Reg) (s : State) : Host.Outcome State Fault Refusal :=
  if s.pr then .next s.privilegedProgram
  else .next (s.setReg rt s.msr).advance

/-- R175: the System call interrupt is the instruction's whole effect, in both modes. -/
def execSc (s : State) : Host.Outcome State Fault Refusal := .next s.systemCall

/-- R176: in supervisor mode `MSR <- SRR1 & MSR_WRITABLE`, `pc <- SRR0[31:2] || 0b00`; an SRR1 with WE = 1 is refused
(R244). -/
def execRfi (s : State) : Host.Outcome State Fault Refusal :=
  if s.pr then .next s.privilegedProgram
  else if setsWe s.srr1 then .refused .msrWeSet
  else .next s.returnFromInterrupt

end Sys2Proof.Machine
end

