-- ==== Sys2Proof/Machine/Dispatch.lean ====
section
/-! DEFINITION. One arm per constructor of Instr, each a direct call of the instruction's meaning. -/

namespace Sys2Proof.Machine

def exec (i : Instr) (s : State) : Host.Outcome State Fault Refusal :=
  match i with
  | .addi rt ra si => Sys2Proof.Machine.execAddi rt ra si s
  | .addis rt ra si => Sys2Proof.Machine.execAddis rt ra si s
  | .sc => Sys2Proof.Machine.execSc s
  | .b li aa lk => Sys2Proof.Machine.execB li aa lk s
  | .bclr bo bi lk => Sys2Proof.Machine.execBclr bo bi lk s
  | .rfi => Sys2Proof.Machine.execRfi s
  | .rlwinm rs ra sh mb me rc => Sys2Proof.Machine.execRlwinm rs ra sh mb me rc s
  | .ori rs ra ui => Sys2Proof.Machine.execOri rs ra ui s
  | .mfmsr rt => Sys2Proof.Machine.execMfmsr rt s
  | .mtmsr rs => Sys2Proof.Machine.execMtmsr rs s
  | .mfspr rt sprn => Sys2Proof.Machine.execMfspr rt sprn s
  | .mtspr sprn rs => Sys2Proof.Machine.execMtspr sprn rs s
  | .stwu rs ra d => Sys2Proof.Machine.execStwu rs ra d s

end Sys2Proof.Machine
end

