-- ==== Sys2Proof/Machine/Fetch.lean ====
section
/-!
DEFINITION. Instruction fetch (spec R83, R98, R280) and placing a word where the next fetch reads it.
-/

namespace Sys2Proof.Machine

/-- What a fetch gives. -/
inductive Fetched where
  | word (w : Word)
  | fault (f : Fault)
  | refused (r : Refusal)
  deriving DecidableEq, Repr

/-- One of the four bytes at `pc` has been written by a `stwu` of this run (R98). -/
def State.fetchesModified (s : State) : Bool := s.stored.any (isWordByte s.pc)

/-- `MemRead(pc, 4)` (R83): refused outside MEM_REGIONS (R83) and over modified code (R98), a fault where a byte has no
value (R280(c)). -/
def fetch (s : State) : Fetched :=
  if !isMemWord s.config s.pc then .refused (.fetchOutsideMemory s.pc)
  else if s.fetchesModified then .refused (.fetchOfModifiedCode s.pc)
  else
    match Memory.readWord s.mem s.pc with
    | some w => .word w
    | none => .fault (.unwrittenByte s.pc)

/-- Place a word in memory from outside the machine, as the platform loads a program (R260, log 33): its bytes count as
never written by a `stwu`. -/
def State.loadWord (s : State) (a w : Word) : State :=
  { s with mem := Memory.writeWord s.mem a w, stored := s.stored.filter (fun x => !isWordByte a x) }

end Sys2Proof.Machine
end

