-- ==== Sys2Proof/Machine/Step.lean ====
section
/-!
DEFINITION. One step of the machine (spec R7, R213, R280): at the boundary an asynchronous interrupt is taken, or one
instruction is fetched, decoded and executed.
-/

namespace Sys2Proof.Machine

/-- Fetch, decode, execute (R83, R125). -/
def runInstruction (s : State) : Host.Outcome State Fault Refusal :=
  match fetch s with
  | .word w =>
    match decode w with
    | .ok i => exec i s
    | .error _ => .refused (.instructionNotInSpec w)
  | .fault f => .fault f
  | .refused r => .refused r

/-- One step. -/
def step (s : State) : Host.Outcome State Fault Refusal :=
  match boundary s with
  | .interrupt a t => .next (t.takeAsync a)
  | .run t => runInstruction t

/-- The state whose very next step runs the instruction whose bits are `w` (bits from `nbits` on are 0): the word is
placed at `pc`, and this boundary brings no event and takes no interrupt (log 33). -/
def State.withFetchWord (s : State) (nbits w : Nat) : State :=
  { s.loadWord s.pc (BitVec.ofNat 32 (w % 2 ^ nbits)) with inputs := ⟨[], false⟩ :: s.inputs }

end Sys2Proof.Machine
end

