-- ==== Sys2Proof/Safety.lean ====
section
/-!
DEFINITION. What counts as a sound state and what user mode must not change, in the terms the claims use.
-/

namespace Sys2Proof.Machine

/-- What the spec says always holds of the machine. -/
structure State.Inv (s : State) : Prop where
  /-- The two low bits of `pc` are 0 (R25). -/
  pcAligned : s.pc.extractLsb' 0 2 = 0
  /-- Reserved MSR bits read as 0 (R40). -/
  msrReserved : s.msr &&& msrWritable = s.msr
  /-- WE is always 0 (R40, R244). -/
  msrWe : s.msr &&& msrWeMask = 0
  /-- IVPR holds only `[31:16]` (R42). -/
  ivprMasked : s.ivpr &&& ivprMask = s.ivpr
  /-- Every IVOR holds only `[15:4]` (R43). -/
  ivorMasked : ∀ t, s.ivorOf t &&& ivorMask = s.ivorOf t
  /-- Memory is in its canonical form. -/
  memCanonical : Memory.wf s.mem = true
  /-- The record of written addresses is in its canonical form. -/
  storedCanonical : addrsWf s.stored = true
  /-- Every address a `stwu` has written has a value. -/
  storedWritten : ∀ a ∈ s.stored, (Memory.readByte s.mem a).isSome
  /-- The PIC's registers hold only their fields (R246 to R249). -/
  eivprFields : ∀ n : Fin 12, s.pic.vpr (.ext n) &&& eivprMask = s.pic.vpr (.ext n)
  iivprFields : ∀ n : Fin 64, s.pic.vpr (.int n) &&& iivprMask = s.pic.vpr (.int n)
  destFields : ∀ src, s.pic.dest src &&& destMask = s.pic.dest src

/-- The supervisor-only registers (R36, R37, R235): what a program in user mode must not change while it stays in user
mode. -/
def State.supervisorRegs (s : State) : List Word :=
  [s.msr, s.ivpr, s.srr0, s.srr1, s.csrr0, s.csrr1, s.mcsrr0, s.mcsrr1, s.esr, s.dear, s.mcsr] ++
    s.ivor.toList ++ s.sprg.toList

/-- The one general register an instruction may write (R140 to R174), if any. -/
def destReg : Instr → Option Reg
  | .addi rt _ _ => some rt
  | .addis rt _ _ => some rt
  | .sc => none
  | .b _ _ _ => none
  | .bclr _ _ _ => none
  | .rfi => none
  | .rlwinm _ ra _ _ _ _ => some ra
  | .ori _ ra _ => some ra
  | .mfmsr rt => some rt
  | .mtmsr _ => none
  | .mfspr rt _ => some rt
  | .mtspr _ _ => none
  | .stwu _ ra _ => some ra

/-- The instructions that are privileged (R172, R223): in user mode they take the Program interrupt. -/
def privileged : Instr → Bool
  | .addi _ _ _ => false
  | .addis _ _ _ => false
  | .sc => false
  | .b _ _ _ => false
  | .bclr _ _ _ => false
  | .rfi => true
  | .rlwinm _ _ _ _ _ _ => false
  | .ori _ _ _ => false
  | .mfmsr _ => true
  | .mtmsr _ => true
  | .mfspr _ n => sprPrivileged n
  | .mtspr n _ => sprPrivileged n
  | .stwu _ _ _ => false

end Sys2Proof.Machine
end

