-- ==== Sys2Proof/WellFormed.lean ====
section
/-!
DEFINITION. Which instructions are well formed: those that are none of the invalid forms of spec R127.  Operand ranges are
in the operands' types.  An ill-formed instruction still decodes (it matches its row) and still has its meaning: a refusal
by name, or, for an SPR number that needs supervisor mode, the Program interrupt in user mode.
-/

namespace Sys2Proof

/-- R127: `stwu` with RA = 0, `mtspr` to and `mfspr` of a number R36 does not admit in that direction are invalid forms;
nothing else is. -/
def Instr.wf : Instr → Bool
  | .addi _ _ _ => true
  | .addis _ _ _ => true
  | .sc => true
  | .b _ _ _ => true
  | .bclr _ _ _ => true
  | .rfi => true
  | .rlwinm _ _ _ _ _ _ => true
  | .ori _ _ _ => true
  | .mfmsr _ => true
  | .mtmsr _ => true
  | .mfspr _ n => (Machine.sprModel n).readable
  | .mtspr n _ => (Machine.sprModel n).writable
  | .stwu _ ra _ => ra != 0

end Sys2Proof
end

