-- ==== Sys2Proof/Certificates/Slice0/Obligations.lean ====
section
/-!
DEFINITION. The statements for the provers: what the rules of the spec say the machine does.  A state `t` "is `s` but for
some fields" is written `t = { s with field := t.field, … }`: every other field of the state is unchanged.
-/

open Sys2Proof Sys2Proof.Machine

/-! ## Encodings -/

/-- The twelve words of the dump (R123, a derivation the spec marks as its own), with one word of each row the dump
lacks (R129, 95_test_vectors.md), written out bit by bit from the formats. -/
def Obligations.SpecWordsDecode : Prop :=
  decode 0b011111_00011_10011_01000_0111010011_0 = .ok (.mtspr 275 3) ∧
  decode 0b011111_00011_0000000000_0001010011_0 = .ok (.mfmsr 3) ∧
  decode 0b010101_00011_00011_00000_01111_01101_0 = .ok (.rlwinm 3 3 0 15 13 false) ∧
  decode 0b011111_00011_0000000000_0010010010_0 = .ok (.mtmsr 3) ∧
  decode 0b011000_00000_00000_0000000000000000 = .ok (.ori 0 0 0) ∧
  decode 0b011111_00011_01000_00000_0101010011_0 = .ok (.mfspr 3 8) ∧
  decode 0b010010_000001100110000111001010_0_1 = .ok (.b 0x0661CA false true) ∧
  decode 0b001110_00011_00001_0000000000000000 = .ok (.addi 3 1 0) ∧
  decode 0b010010_000001110100111010100111_0_1 = .ok (.b 0x074EA7 false true) ∧
  decode 0b001110_00001_00001_0000000000010000 = .ok (.addi 1 1 16) ∧
  decode 0b010010_000001100110001001110101_0_1 = .ok (.b 0x066275 false true) ∧
  decode 0b100101_00001_00001_1111111111110000 = .ok (.stwu 1 1 0xFFF0) ∧
  decode 0b001111_00001_00000_1111111111111000 = .ok (.addis 1 0 0xFFF8) ∧
  decode 0b010011_10100_00000_00000_0000010000_0 = .ok (.bclr 20 0 false) ∧
  decode 0b010011_00000_00000_00000_0000110010_0 = .ok .rfi ∧
  decode 0b010001_00000_00000_0000000000000010 = .ok .sc

/-- R112 to R122: every word that matches a row of the opcode map is that row's instruction, with the operands the
formats give. -/
def Obligations.EveryRowDecodesItsWords : Prop :=
  ∀ w : Word,
    let f5 := fun lo => (w.extractLsb' lo 5).toFin
    (w &&& 0xFC000000 = 0x38000000 → decode w = .ok (.addi (f5 21) (f5 16) (w.extractLsb' 0 16))) ∧
    (w &&& 0xFC000000 = 0x3C000000 → decode w = .ok (.addis (f5 21) (f5 16) (w.extractLsb' 0 16))) ∧
    (w = 0x44000002 → decode w = .ok .sc) ∧
    (w &&& 0xFC000000 = 0x48000000 →
      decode w = .ok (.b (w.extractLsb' 2 24) (w.getLsbD 1) (w.getLsbD 0))) ∧
    (w &&& 0xFC00FFFE = 0x4C000020 →
      decode w = .ok (.bclr (w.extractLsb' 21 5) (f5 16) (w.getLsbD 0))) ∧
    (w = 0x4C000064 → decode w = .ok .rfi) ∧
    (w &&& 0xFC000000 = 0x54000000 →
      decode w = .ok (.rlwinm (f5 21) (f5 16) (f5 11) (f5 6) (f5 1) (w.getLsbD 0))) ∧
    (w &&& 0xFC000000 = 0x60000000 → decode w = .ok (.ori (f5 21) (f5 16) (w.extractLsb' 0 16))) ∧
    (w &&& 0xFC1FFFFF = 0x7C0000A6 → decode w = .ok (.mfmsr (f5 21))) ∧
    (w &&& 0xFC1FFFFF = 0x7C000124 → decode w = .ok (.mtmsr (f5 21))) ∧
    (w &&& 0xFC0007FF = 0x7C0002A6 →
      decode w = .ok (.mfspr (f5 21) (w.extractLsb' 11 5 ++ w.extractLsb' 16 5))) ∧
    (w &&& 0xFC0007FF = 0x7C0003A6 →
      decode w = .ok (.mtspr (w.extractLsb' 11 5 ++ w.extractLsb' 16 5) (f5 21))) ∧
    (w &&& 0xFC000000 = 0x94000000 → decode w = .ok (.stwu (f5 21) (f5 16) (w.extractLsb' 0 16)))

/-- R125, the spec's decision D10: a fetched word that matches no row of the opcode table stops the machine by name;
it is no Program interrupt. -/
def Obligations.WordOutsideTableIsRefused : Prop :=
  ∀ (s t : State) (w : Word), boundary s = .run t → fetch t = .word w →
    (∀ p ∈ [((0x38000000 : Word), (0xFC000000 : Word)), (0x3C000000, 0xFC000000), (0x44000002, 0xFFFFFFFF),
        (0x48000000, 0xFC000000), (0x4C000020, 0xFC00FFFE), (0x4C000064, 0xFFFFFFFF), (0x54000000, 0xFC000000),
        (0x60000000, 0xFC000000), (0x7C0000A6, 0xFC1FFFFF), (0x7C000124, 0xFC1FFFFF), (0x7C0002A6, 0xFC0007FF),
        (0x7C0003A6, 0xFC0007FF), (0x94000000, 0xFC000000)], w &&& p.2 ≠ p.1) →
    step s = .refused (.instructionNotInSpec w)

/-- Decoding the encoded word of any instruction gives it back, every operand at every value. -/
def Obligations.DecodeOfEncode : Prop := ∀ i : Instr, decode (encode i) = .ok i

/-- The other direction: a word that decodes is the word of what it decodes to, so no two words are one instruction.
-/
def Obligations.EncodeOfDecode : Prop := ∀ (w : Word) (i : Instr), decode w = .ok i → encode i = w

/-- R81, R110 (the spec's decisions D4, D10): an instruction is four bytes, the most significant first; the bytes
after it are left. -/
def Obligations.InstructionIsFourBytesBigEndian : Prop :=
  ∀ (i : Instr) (rest : List Byte),
    decodeBytes ((encode i).extractLsb' 24 8 :: (encode i).extractLsb' 16 8 :: (encode i).extractLsb' 8 8 ::
      (encode i).extractLsb' 0 8 :: rest) = .ok (i, rest)

/-! ## The step -/

/-- R83 (byte order, fetch outside memory and over modified code: the spec's decisions D4, D6, D9; log 7, 23, 26): when
the core goes on to an instruction from `t`, the four bytes at `t.pc` are in MEM_REGIONS, not written in this run, and
decode to `i`, the step is `exec i t`. The second clause is the model's own: an empty `inputs` list means that no event
lands at this boundary (DESIGN CHOICE, log 12), and with nothing pending and enabled `t` is then the state itself. -/
def Obligations.StepRunsDecodedInstruction : Prop :=
  (∀ (s t : State) (i : Instr) (b0 b1 b2 b3 : Byte), boundary s = .run t →
    isMemWord t.config t.pc = true → (∀ k < 4, (t.pc + BitVec.ofNat 32 k).toNat ∉ t.stored) →
    Memory.readByte t.mem t.pc.toNat = some b0 → Memory.readByte t.mem (t.pc + 1).toNat = some b1 →
    Memory.readByte t.mem (t.pc + 2).toNat = some b2 → Memory.readByte t.mem (t.pc + 3).toNat = some b3 →
    decodeBytes [b0, b1, b2, b3] = .ok (i, []) → step s = exec i t) ∧
  (∀ s : State, s.inputs = [] → s.candidate = none → boundary s = .run s)

/-- R212, R213, R216 (the spec's decisions D24, D14; the entry form is the model's, log 12): at a boundary the
environment's events land, those of the first entry of `inputs`, in order, and the entry is used up (what each event does:
EventsChangeTheirOwnCondition); then a pending enabled condition is taken or not as the entry says; without an entry no
event lands and either may happen. The interrupt is entered with the boundary's `pc` as return address, and its type is the row of R212
of the condition; which SPR number holds the type's IVOR is SprNumbersNameRegisters. -/
def Obligations.BoundaryTakesOrRuns : Prop :=
  (asyncType .criticalInput = .criticalInput ∧ asyncType .watchdog = .watchdog ∧
    asyncType .externalInput = .externalInput ∧ asyncType .decrementer = .decrementer ∧
    asyncType .fixedInterval = .fixedInterval ∧ asyncType .performanceMonitor = .performanceMonitor ∧
    asyncType .machineCheck = .machineCheck ∧ asyncType .debug = .debug) ∧
  (∀ s : State, s.inputs = [] → s.arrive = s) ∧
  (∀ (s : State) (b : Boundary) (rest : List Boundary), s.inputs = b :: rest →
    s.arrive = b.events.foldl State.applyEvent { s with inputs := rest }) ∧
  (∀ s, s.arrive.candidate = none → step s = runInstruction s.arrive) ∧
  (∀ s a b rest, s.inputs = b :: rest → s.arrive.candidate = some a →
    step s = if b.takes then .next (s.arrive.takeInterrupt (asyncType a) s.pc none) else runInstruction s.arrive) ∧
  (∀ s a, s.inputs = [] → s.candidate = some a →
    ∃ u, u = { s with freeIx := s.freeIx + 1 } ∧
      (step s = .next (u.takeInterrupt (asyncType a) s.pc none) ∨ step s = runInstruction u))

/-- R83, R98, R280(c) (the spec's decisions D6, D9, D19; log 5, 6, 23): when a fetch stops the run, and how. Which name
a fetch gets that could stop on several grounds is the model's order (DESIGN CHOICE, log 39), and that the PIC block is
no memory to fetch from is its reading of MEM_REGIONS (DESIGN CHOICE, log 26). -/
def Obligations.FetchStops : Prop :=
  ∀ s : State,
    (isMemWord s.config s.pc = false → runInstruction s = .refused (.fetchOutsideMemory s.pc)) ∧
    (isMemWord s.config s.pc = true → (∃ k < 4, (s.pc + BitVec.ofNat 32 k).toNat ∈ s.stored) →
      runInstruction s = .refused (.fetchOfModifiedCode s.pc)) ∧
    (isMemWord s.config s.pc = true → (∀ k < 4, (s.pc + BitVec.ofNat 32 k).toNat ∉ s.stored) →
      (∃ k < 4, Memory.readByte s.mem (s.pc + BitVec.ofNat 32 k).toNat = none) →
      runInstruction s = .fault (.unwrittenByte s.pc))

/-- The model's own loader (log 33): after `withFetchWord` the very next step runs that instruction. -/
def Obligations.LoadedWordRunsNext : Prop :=
  ∀ (s : State) (nbits w : Nat) (i : Instr), isMemWord s.config s.pc = true →
    decode (BitVec.ofNat 32 (w % 2 ^ nbits)) = .ok i →
    ∃ u, step (s.withFetchWord nbits w) = exec i u ∧ u = { s with mem := u.mem, stored := u.stored } ∧
      (∀ a, isWordByte s.pc a = false → Memory.readByte u.mem a = Memory.readByte s.mem a) ∧
      Memory.readWord u.mem s.pc = some (BitVec.ofNat 32 (w % 2 ^ nbits))

/-! ## Integer instructions -/

/-- R140. -/
def Obligations.AddiAddsSignedImmediate : Prop :=
  (∀ w : Word, w &&& 0xFC000000 = 0x38000000 →
    decode w = .ok (.addi (w.extractLsb' 21 5).toFin (w.extractLsb' 16 5).toFin (w.extractLsb' 0 16))) ∧
  ∀ (rt ra : Reg) (si : BitVec 16) (s : State),
    ∃ t, exec (.addi rt ra si) s = .next t ∧ t = { s with gpr := t.gpr, pc := s.pc + 4 } ∧
      t.reg rt = BitVec.ofInt 32 ((if ra = 0 then 0 else (s.reg ra).toInt) + si.toInt) ∧
      ∀ q, q ≠ rt → t.reg q = s.reg q

/-- R141. -/
def Obligations.AddisAddsShiftedImmediate : Prop :=
  (∀ w : Word, w &&& 0xFC000000 = 0x3C000000 →
    decode w = .ok (.addis (w.extractLsb' 21 5).toFin (w.extractLsb' 16 5).toFin (w.extractLsb' 0 16))) ∧
  ∀ (rt ra : Reg) (si : BitVec 16) (s : State),
    ∃ t, exec (.addis rt ra si) s = .next t ∧ t = { s with gpr := t.gpr, pc := s.pc + 4 } ∧
      (t.reg rt).toNat = ((if ra = 0 then 0 else (s.reg ra).toNat) + si.toNat * 2 ^ 16) % 2 ^ 32 ∧
      ∀ q, q ≠ rt → t.reg q = s.reg q

/-- R142; the target is RA and the source RS, and RS = 0 reads `x[0]`. -/
def Obligations.OriOrsUnsignedImmediate : Prop :=
  (∀ w : Word, w &&& 0xFC000000 = 0x60000000 →
    decode w = .ok (.ori (w.extractLsb' 21 5).toFin (w.extractLsb' 16 5).toFin (w.extractLsb' 0 16))) ∧
  ∀ (rs ra : Reg) (ui : BitVec 16) (s : State),
    ∃ t, exec (.ori rs ra ui) s = .next t ∧ t = { s with gpr := t.gpr, pc := s.pc + 4 } ∧
      (∀ k < 32, (t.reg ra).getLsbD k = ((s.reg rs).getLsbD k || (decide (k < 16) && ui.getLsbD k))) ∧
      ∀ q, q ≠ ra → t.reg q = s.reg q

/-- R143: bit `p` (IBM-32) of the result is the source's bit `p + SH` (modulo 32) where `p` is in MASK(MB, ME), and 0
elsewhere; with Rc = 1 it is recorded by `record_cr0` (what that does is the next statement), else CR is kept. -/
def Obligations.RlwinmRotatesAndMasks : Prop :=
  (∀ w : Word, w &&& 0xFC000000 = 0x54000000 →
    decode w = .ok (.rlwinm (w.extractLsb' 21 5).toFin (w.extractLsb' 16 5).toFin (w.extractLsb' 11 5).toFin
      (w.extractLsb' 6 5).toFin (w.extractLsb' 1 5).toFin (w.getLsbD 0))) ∧
  ∀ (rs ra : Reg) (sh mb me : Fin 32) (rc : Bool) (s : State),
    ∃ t, exec (.rlwinm rs ra sh mb me rc) s = .next t ∧ t = { s with gpr := t.gpr, pc := s.pc + 4, cr := t.cr } ∧
      (∀ p : Fin 32, (t.reg ra).getLsbD (31 - p.val) =
        ((if mb ≤ me then decide (mb ≤ p ∧ p ≤ me) else decide (p ≤ me ∨ mb ≤ p)) &&
          (s.reg rs).getLsbD (31 - (p.val + sh.val) % 32))) ∧
      (∀ q, q ≠ ra → t.reg q = s.reg q) ∧ t.cr = if rc then (s.recordCr0 (t.reg ra)).cr else s.cr

/-- R144: `rlwinm.` records LT, GT and EQ of its result and a copy of XER[SO], and keeps `CR[27:0]`. -/
def Obligations.RecordFormSetsCr0 : Prop :=
  ∀ (rs ra : Reg) (sh mb me : Fin 32) (s : State),
    ∃ t, exec (.rlwinm rs ra sh mb me true) s = .next t ∧
      (t.cr.getLsbD 31 = true ↔ (t.reg ra).toInt < 0) ∧
      (t.cr.getLsbD 30 = true ↔ (t.reg ra).toInt > 0) ∧
      (t.cr.getLsbD 29 = true ↔ t.reg ra = 0) ∧
      t.cr.getLsbD 28 = s.xer.getLsbD 31 ∧
      ∀ k < 28, t.cr.getLsbD k = s.cr.getLsbD k

/-! ## Branches -/

/-- R150. -/
def Obligations.BranchTargetsAndLinks : Prop :=
  (∀ w : Word, w &&& 0xFC000000 = 0x48000000 →
    decode w = .ok (.b (w.extractLsb' 2 24) (w.getLsbD 1) (w.getLsbD 0))) ∧
  ∀ (li : BitVec 24) (aa lk : Bool) (s : State),
    ∃ t, exec (.b li aa lk) s = .next t ∧ t = { s with pc := t.pc, lr := t.lr } ∧
      t.lr = (if lk then s.pc + 4 else s.lr) ∧
      t.pc = BitVec.ofInt 32 ((if aa then 0 else s.pc.toInt) + li.toInt * 4)

/-- R151, R152: the target is the old LR with its two low bits cleared; the CTR is decremented by the BO values whose
third bit is 0, taken or not; the nine rows of the BO table say when the branch is taken. -/
def Obligations.BclrFollowsTheBoTable : Prop :=
  (∀ w : Word, w &&& 0xFC00FFFE = 0x4C000020 →
    decode w = .ok (.bclr (w.extractLsb' 21 5) (w.extractLsb' 16 5).toFin (w.getLsbD 0))) ∧
  ∀ (bo : BitVec 5) (bi : Fin 32) (lk : Bool) (s : State),
    ∃ t, exec (.bclr bo bi lk) s = .next t ∧ t = { s with pc := t.pc, lr := t.lr, ctr := t.ctr } ∧
      t.lr = (if lk then s.pc + 4 else s.lr) ∧
      t.ctr = (if bo.toNat / 4 % 2 = 0 then s.ctr - 1 else s.ctr) ∧
      (let goes := fun (c : Prop) => (c → t.pc.toNat = s.lr.toNat / 4 * 4) ∧ (¬ c → t.pc = s.pc + 4)
       let crBit := s.cr.getLsbD (31 - bi.val)
       (bo.toNat ∈ [0, 1] → goes (t.ctr ≠ 0 ∧ crBit = false)) ∧
       (bo.toNat ∈ [2, 3] → goes (t.ctr = 0 ∧ crBit = false)) ∧
       (bo.toNat ∈ [4, 5, 6, 7] → goes (crBit = false)) ∧
       (bo.toNat ∈ [8, 9] → goes (t.ctr ≠ 0 ∧ crBit = true)) ∧
       (bo.toNat ∈ [10, 11] → goes (t.ctr = 0 ∧ crBit = true)) ∧
       (bo.toNat ∈ [12, 13, 14, 15] → goes (crBit = true)) ∧
       (bo.toNat ∈ [16, 17, 24, 25] → goes (t.ctr ≠ 0)) ∧
       (bo.toNat ∈ [18, 19, 26, 27] → goes (t.ctr = 0)) ∧
       (bo.toNat ∈ [20, 21, 22, 23, 28, 29, 30, 31] → goes True))

/-! ## The store -/

/-- R160, R81, R90 (the spec's decisions D4 to D7): a `stwu` to memory. The address stored to is `effectiveAddress`,
the meaning's own function; the four bytes there are those of RS before the instruction, big-endian; every other byte
of memory reads as before. -/
def Obligations.StwuStoresWordAndUpdatesBase : Prop :=
  ∀ (rs ra : Reg) (d : BitVec 16) (s : State), ra ≠ 0 → (s.effectiveAddress ra d).toNat % 4 = 0 →
    isMemWord s.config (s.effectiveAddress ra d) = true →
    s.effectiveAddress ra d = BitVec.ofInt 32 ((s.reg ra).toInt + d.toInt) ∧
    ∃ t, exec (.stwu rs ra d) s = .next t ∧
      t = { s with gpr := t.gpr, pc := s.pc + 4, mem := t.mem, stored := t.stored } ∧
      t.reg ra = s.effectiveAddress ra d ∧ (∀ q, q ≠ ra → t.reg q = s.reg q) ∧
      (∀ k < 4, Memory.readByte t.mem ((s.effectiveAddress ra d).toNat + k) =
        some ((s.reg rs).extractLsb' (24 - 8 * k) 8)) ∧
      (∀ a, ¬ ((s.effectiveAddress ra d).toNat ≤ a ∧ a < (s.effectiveAddress ra d).toNat + 4) →
        Memory.readByte t.mem a = Memory.readByte s.mem a) ∧
      ∀ a, a ∈ t.stored ↔ a ∈ s.stored ∨
        ((s.effectiveAddress ra d).toNat ≤ a ∧ a < (s.effectiveAddress ra d).toNat + 4)

/-- R245, R249 (bit positions as R246 to R248; log 26, 27): a `stwu` to the address of a PIC register but PIC_IACK
replaces that register's writable fields and nothing else in the PIC: no other register, no request input, no latched
edge, no in-service state; memory keeps every byte. That a write while A = 1 takes effect and that an edge latched before
S is set to level is kept are the model's choices (DESIGN CHOICE, log 27), and so is that a change of the polarity bit
latches no edge (DESIGN CHOICE, log 28). -/
def Obligations.StwuWritesPicRegister : Prop :=
  ∀ (rs ra : Reg) (d : BitVec 16) (s : State) (r : PicReg), ra ≠ 0 → r ≠ .iack →
    s.effectiveAddress ra d = s.config.ccsrbar + BitVec.ofNat 32 (picRegOffset r) →
    (s.effectiveAddress ra d).toNat % 4 = 0 →
    ∃ t, exec (.stwu rs ra d) s = .next t ∧
      t = { s with gpr := t.gpr, pc := s.pc + 4, pic := t.pic } ∧
      t.reg ra = s.effectiveAddress ra d ∧ (∀ q, q ≠ ra → t.reg q = s.reg q) ∧
      (∀ n, t.pic.vpr (.ext n) =
        if r = .eivpr n then s.reg rs &&& 0x80CFFFFF else s.pic.vpr (.ext n)) ∧
      (∀ n, t.pic.vpr (.int n) =
        if r = .iivpr n then s.reg rs &&& 0x808FFFFF else s.pic.vpr (.int n)) ∧
      (∀ n, t.pic.dest (.ext n) =
        if r = .eidr n then s.reg rs &&& 0xC0000003 else s.pic.dest (.ext n)) ∧
      (∀ n, t.pic.dest (.int n) =
        if r = .iidr n then s.reg rs &&& 0xC0000003 else s.pic.dest (.int n)) ∧
      t.pic.iack = s.pic.iack ∧
      (∀ n : Fin 12, t.pic.ext[n].pin = s.pic.ext[n].pin ∧ t.pic.ext[n].edge = s.pic.ext[n].edge ∧
        t.pic.ext[n].inService = s.pic.ext[n].inService) ∧
      ∀ n : Fin 64, t.pic.int[n].pin = s.pic.int[n].pin ∧ t.pic.int[n].inService = s.pic.int[n].inService

/-- R160, R84, R90, R249 (the spec's decisions D23, D5, D6, D20): when a `stwu` is refused, and by which name. The order
among the grounds is the model's (DESIGN CHOICE, log 39), and so are the end of the PIC block, offset 5_FFFFh, and its
precedence over MEM_REGIONS, on which the third and fourth clauses rest (DESIGN CHOICE, log 26). -/
def Obligations.StwuRefusals : Prop :=
  (∀ (rs : Reg) (d : BitVec 16) (s : State), exec (.stwu rs 0 d) s = .refused .stwuInvalidForm) ∧
  (∀ (rs ra : Reg) (d : BitVec 16) (s : State), ra ≠ 0 → (s.effectiveAddress ra d).toNat % 4 ≠ 0 →
    exec (.stwu rs ra d) s = .refused (.misalignedStore (s.effectiveAddress ra d))) ∧
  (∀ (rs ra : Reg) (d : BitVec 16) (s : State), ra ≠ 0 → (s.effectiveAddress ra d).toNat % 4 = 0 →
    inPicBlock s.config (s.effectiveAddress ra d) = true →
    (∀ r, r ≠ .iack → picRegOffset r ≠ picOffset s.config (s.effectiveAddress ra d)) →
    exec (.stwu rs ra d) s = .refused (.picRegisterOutsideSpec (s.effectiveAddress ra d))) ∧
  (∀ (rs ra : Reg) (d : BitVec 16) (s : State), ra ≠ 0 → (s.effectiveAddress ra d).toNat % 4 = 0 →
    inPicBlock s.config (s.effectiveAddress ra d) = false →
    isMemWord s.config (s.effectiveAddress ra d) = false →
    exec (.stwu rs ra d) s = .refused (.storeOutsideMemory (s.effectiveAddress ra d)))

/-- R81 (the spec's decision D4): a word read where a word was written is that word, and its bytes lie most
significant first. -/
def Obligations.MemoryWordIsBigEndian : Prop :=
  ∀ (m : Memory) (a v : Word),
    Memory.readWord (Memory.writeWord m a v) a = some v ∧
    Memory.readByte (Memory.writeWord m a v) a.toNat = some (v.extractLsb' 24 8) ∧
    Memory.readByte (Memory.writeWord m a v) (a + 1).toNat = some (v.extractLsb' 16 8) ∧
    Memory.readByte (Memory.writeWord m a v) (a + 2).toNat = some (v.extractLsb' 8 8) ∧
    Memory.readByte (Memory.writeWord m a v) (a + 3).toNat = some (v.extractLsb' 0 8)

/-! ## Special-purpose registers -/

/-- R36 (the spec's decision D17): the numbers `mfspr` and `mtspr` have a meaning for. -/
def Obligations.AdmittedSprNumbers : Prop :=
  ∀ n : BitVec 10,
    ((sprModel n).readable = true ↔ n.toNat ∈ [1, 8, 9, 26, 27, 58, 59, 61, 62, 63, 286, 287, 570, 571] ∨
      (260 ≤ n.toNat ∧ n.toNat ≤ 263) ∨ (272 ≤ n.toNat ∧ n.toNat ≤ 279) ∨ (400 ≤ n.toNat ∧ n.toNat ≤ 415) ∨
      (528 ≤ n.toNat ∧ n.toNat ≤ 531)) ∧
    ((sprModel n).writable = true ↔ (sprModel n).readable = true ∧ n.toNat ∉ [260, 261, 262, 263, 286, 287])

/-- R36, R42, R43, R205, R206 (masks: the spec's decision D25): which register a number names, the masks of IVPR and the
IVORs, and which interrupt type's vector each IVOR number holds (SPR = 400 + n for IVOR0 to IVOR15, 496 + n for IVOR32
to IVOR35, whose types the spec itself supplies, log 40). -/
def Obligations.SprNumbersNameRegisters : Prop :=
  sprModel 1 = .rw .xer ∧ sprModel 8 = .rw .lr ∧ sprModel 9 = .rw .ctr ∧ sprModel 26 = .rw .srr0 ∧
  sprModel 27 = .rw .srr1 ∧ sprModel 58 = .rw .csrr0 ∧ sprModel 59 = .rw .csrr1 ∧ sprModel 61 = .rw .dear ∧
  sprModel 62 = .rw .esr ∧ sprModel 63 = .masked .ivpr 0xFFFF0000 ∧ sprModel 570 = .rw .mcsrr0 ∧
  sprModel 571 = .rw .mcsrr1 ∧ sprModel 286 = .roPir ∧ sprModel 287 = .roPvr ∧
  (∀ k : Fin 8, sprModel (BitVec.ofNat 10 (272 + k.val)) = .rw (.sprg k)) ∧
  (∀ k : Fin 4, sprModel (BitVec.ofNat 10 (260 + k.val)) = .ro (.sprg ⟨4 + k.val, by omega⟩)) ∧
  (∀ p ∈ [((400 : BitVec 10), IntType.criticalInput), (401, .machineCheck), (402, .dataStorage),
      (403, .instructionStorage), (404, .externalInput), (405, .alignment), (406, .program), (407, .fpUnavailable),
      (408, .systemCall), (409, .apUnavailable), (410, .decrementer), (411, .fixedInterval), (412, .watchdog),
      (413, .dataTlbError), (414, .instructionTlbError), (415, .debug), (528, .speUnavailable),
      (529, .embeddedFpData), (530, .embeddedFpRound), (531, .performanceMonitor)],
    sprModel p.1 = .masked (.ivor p.2) 0x0000FFF0) ∧
  ∀ s : State, s.spr .xer = s.xer ∧ s.spr .lr = s.lr ∧ s.spr .ctr = s.ctr ∧ s.spr .srr0 = s.srr0 ∧
    s.spr .srr1 = s.srr1 ∧ s.spr .csrr0 = s.csrr0 ∧ s.spr .csrr1 = s.csrr1 ∧ s.spr .mcsrr0 = s.mcsrr0 ∧
    s.spr .mcsrr1 = s.mcsrr1 ∧ s.spr .dear = s.dear ∧ s.spr .esr = s.esr ∧ s.spr .ivpr = s.ivpr ∧
    (∀ t, s.spr (.ivor t) = s.ivorOf t) ∧ ∀ k : Fin 8, s.spr (.sprg k) = s.sprg[k]

/-- R172: every row of R36 marked supervisor has bit 4 set and every other row has it clear. -/
def Obligations.SprPrivilegeIsBitFour : Prop :=
  ∀ (n : BitVec 10) (r : SprRow), sprRow n = some r →
    (r.priv = .supervisor ↔ n.getLsbD 4 = true)

/-- R170: an admitted `mtspr` writes the register under its mask and nothing else, in any mode that may run it. -/
def Obligations.MtsprWritesRegister : Prop :=
  (∀ w : Word, w &&& 0xFC0007FF = 0x7C0003A6 →
    decode w = .ok (.mtspr (w.extractLsb' 11 5 ++ w.extractLsb' 16 5) (w.extractLsb' 21 5).toFin)) ∧
  ∀ (n : BitVec 10) (rs : Reg) (s : State) (r : SprReg) (m : Word),
    (n.getLsbD 4 = false ∨ s.pr = false) →
    ((sprModel n = .rw r ∧ m = 0xFFFFFFFF) ∨ sprModel n = .masked r m) →
    ∃ t, exec (.mtspr n rs) s = .next t ∧ t.spr r = s.reg rs &&& m ∧ (∀ q, q ≠ r → t.spr q = s.spr q) ∧
      t.pc = s.pc + 4 ∧ t.gpr = s.gpr ∧ t.cr = s.cr ∧ t.msr = s.msr ∧ t.mcsr = s.mcsr ∧ t.usprg0 = s.usprg0 ∧
      t.dbcr0Idm = s.dbcr0Idm ∧ t.config = s.config ∧ (∀ a, Memory.readByte t.mem a = Memory.readByte s.mem a) ∧
      t.stored = s.stored ∧ t.pic = s.pic ∧ t.pend = s.pend ∧ t.inputs = s.inputs ∧ t.freeIx = s.freeIx

/-- R171, R41, R53: an admitted `mfspr` reads the register, or the constant of PVR and PIR, and writes RT alone. -/
def Obligations.MfsprReadsRegister : Prop :=
  (∀ w : Word, w &&& 0xFC0007FF = 0x7C0002A6 →
    decode w = .ok (.mfspr (w.extractLsb' 21 5).toFin (w.extractLsb' 11 5 ++ w.extractLsb' 16 5))) ∧
  ∀ (rt : Reg) (n : BitVec 10) (s : State), (n.getLsbD 4 = false ∨ s.pr = false) → (sprModel n).readable = true →
    ∃ t, exec (.mfspr rt n) s = .next t ∧ t = { s with gpr := t.gpr, pc := s.pc + 4 } ∧
      (∀ q, q ≠ rt → t.reg q = s.reg q) ∧
      (∀ r m, sprModel n = .rw r ∨ sprModel n = .masked r m ∨ sprModel n = .ro r → t.reg rt = s.spr r) ∧
      (sprModel n = .roPir → t.reg rt = s.config.coreId) ∧
      (sprModel n = .roPvr →
        t.reg rt = if s.config.variant = .e500v1 then 0x80200010 else 0x80210010)

/-- R170, R171, R36 (the spec's decision D17): what a number outside SPR_ADMITTED, or a write to a read-only one,
does. -/
def Obligations.SprOutsideSpecIsRefused : Prop :=
  ∀ (n : BitVec 10) (r : Reg) (s : State), (n.getLsbD 4 = false ∨ s.pr = false) →
    ((sprModel n).writable = false → exec (.mtspr n r) s = .refused (.mtsprOutsideSpec n)) ∧
    ((sprModel n).readable = false → exec (.mfspr r n) s = .refused (.mfsprOutsideSpec n))

/-- R170, R171, R42, R43 (decision D25): reading an SPR after writing it gives the value under the register's mask;
the other register used and the mode do not matter as long as the mode may access the number. -/
def Obligations.SprReadAfterWrite : Prop :=
  ∀ (n : BitVec 10) (rs rt : Reg) (s : State), (n.getLsbD 4 = false ∨ s.pr = false) →
    (sprModel n).writable = true →
    ∃ t u, exec (.mtspr n rs) s = .next t ∧ exec (.mfspr rt n) t = .next u ∧
      u.reg rt = s.reg rs &&&
        (if n.toNat = 63 then 0xFFFF0000
         else if (400 ≤ n.toNat ∧ n.toNat ≤ 415) ∨ (528 ≤ n.toNat ∧ n.toNat ≤ 531) then 0x0000FFF0
         else 0xFFFFFFFF)

/-! ## The machine state register, system call and return -/

/-- R173, R40 (the spec's decisions D12, D27): in supervisor mode `mtmsr` of a value without WE writes the writable
bits and nothing else. -/
def Obligations.MtmsrWritesMsr : Prop :=
  (∀ w : Word, w &&& 0xFC1FFFFF = 0x7C000124 → decode w = .ok (.mtmsr (w.extractLsb' 21 5).toFin)) ∧
  ∀ (rs : Reg) (s : State), s.pr = false → (s.reg rs).getLsbD 18 = false →
    exec (.mtmsr rs) s = .next { s with msr := s.reg rs &&& 0x0606FF34, pc := s.pc + 4 }

/-- R174: in supervisor mode `mfmsr` copies the MSR to RT and writes nothing else. -/
def Obligations.MfmsrReadsMsr : Prop :=
  (∀ w : Word, w &&& 0xFC1FFFFF = 0x7C0000A6 → decode w = .ok (.mfmsr (w.extractLsb' 21 5).toFin)) ∧
  ∀ (rt : Reg) (s : State), s.pr = false →
    ∃ t, exec (.mfmsr rt) s = .next t ∧ t = { s with gpr := t.gpr, pc := s.pc + 4 } ∧ t.reg rt = s.msr ∧
      ∀ q, q ≠ rt → t.reg q = s.reg q

/-- R175, in either mode. -/
def Obligations.ScTakesSystemCall : Prop :=
  (∀ w : Word, w = 0x44000002 → decode w = .ok .sc) ∧
  ∀ s : State, ∃ t, exec .sc s = .next t ∧
    t = { s with srr0 := s.pc + 4, srr1 := s.msr, msr := s.msr &&& 0x00021200, pc := t.pc } ∧
    t.pc.toNat = s.ivpr.toNat / 2 ^ 16 * 2 ^ 16 + (s.ivorOf .systemCall).toNat % 2 ^ 16 / 16 * 16

/-- R176, R40 (decision D12): in supervisor mode `rfi` restores the MSR from SRR1 and goes on at SRR0 with its two low
bits cleared. -/
def Obligations.RfiReturns : Prop :=
  (∀ w : Word, w = 0x4C000064 → decode w = .ok .rfi) ∧
  ∀ s : State, s.pr = false → s.srr1.getLsbD 18 = false →
    ∃ t, exec .rfi s = .next t ∧ t = { s with msr := s.srr1 &&& 0x0606FF34, pc := t.pc } ∧
      t.pc.toNat = s.srr0.toNat / 4 * 4

/-- R244 (the spec's decision D12): `mtmsr` and `rfi` refuse, in supervisor mode, exactly a value with WE = 1,
whatever its other bits. -/
def Obligations.SettingWaitEnableIsRefused : Prop :=
  ∀ (rs : Reg) (s : State), s.pr = false →
    (exec (.mtmsr rs) s = .refused .msrWeSet ↔ (s.reg rs).getLsbD 18 = true) ∧
    (exec .rfi s = .refused .msrWeSet ↔ s.srr1.getLsbD 18 = true)

/-- R172, R223, R221 (ESR and SRR0: the spec's decisions D28, D14): every privileged instruction in user mode takes
the Program interrupt and has no other effect. -/
def Obligations.PrivilegedInUserModeTraps : Prop :=
  ∀ (i : Instr) (s : State), s.pr = true →
    (i = .rfi ∨ (∃ r, i = .mtmsr r ∨ i = .mfmsr r) ∨
      (∃ n r, n.getLsbD 4 = true ∧ (i = .mtspr n r ∨ i = .mfspr r n))) →
    ∃ t, exec i s = .next t ∧
      t = { s with srr0 := s.pc, srr1 := s.msr, msr := s.msr &&& 0x00021200, esr := 0x04000000, pc := t.pc } ∧
      t.pc.toNat = s.ivpr.toNat / 2 ^ 16 * 2 ^ 16 + (s.ivorOf .program).toNat % 2 ^ 16 / 16 * 16

/-- R175, R176, R225: a system call from a state whose MSR holds only writable bits and not WE, returned from at once,
goes on after the `sc` with the MSR it had, and with every general register. -/
def Obligations.SystemCallThenReturn : Prop :=
  ∀ s : State, s.msr &&& 0x0602FF34 = s.msr → s.pc.toNat % 4 = 0 →
    ∃ t u, exec .sc s = .next t ∧ exec .rfi t = .next u ∧
      u = { s with pc := s.pc + 4, srr0 := s.pc + 4, srr1 := s.msr }

/-! ## Interrupts -/

/-- R210: when an interrupt of any type is taken, the next instruction is at `IVPR[31:16] || IVORn[15:4] || 0b0000`,
of the registers at that time. -/
def Obligations.VectorAddress : Prop :=
  ∀ (s : State) (t : IntType) (ret : Word) (e : Option Word),
    (s.takeInterrupt t ret e).pc.toNat = s.ivpr.toNat / 2 ^ 16 * 2 ^ 16 + (s.ivorOf t).toNat % 2 ^ 16 / 16 * 16

/-- R215, R217, R207 (the spec's decision D13): entry to the noncritical class, for each of its types. -/
def Obligations.NoncriticalEntry : Prop :=
  ∀ (s : State) (t : IntType) (ret : Word) (e : Option Word),
    t ∉ [IntType.criticalInput, .machineCheck, .watchdog, .debug] →
    s.takeInterrupt t ret e =
      { s with srr0 := ret, srr1 := s.msr, msr := s.msr &&& 0x00021200, esr := e.getD s.esr, pc := s.vector t }

/-- R219, R207 (the spec's decision D16): entry to the critical class; SRR0, SRR1 and ESR are untouched. -/
def Obligations.CriticalEntry : Prop :=
  ∀ (s : State) (t : IntType) (ret : Word) (e : Option Word), t ∈ [IntType.criticalInput, .watchdog, .debug] →
    s.takeInterrupt t ret e =
      { s with csrr0 := ret, csrr1 := s.msr, msr := s.msr &&& 0x00001000, pc := s.vector t }

/-- R220 (the spec's decision D16): entry to the machine-check interrupt; MCSR takes a free value, and MCSRR0 is the
return address if the error is recoverable and a free multiple of 4 if not (log 15). -/
def Obligations.MachineCheckEntry : Prop :=
  ∀ (s : State) (ret : Word) (e : Option Word),
    ∃ t, s.takeInterrupt .machineCheck ret e = t ∧
      t = { s with mcsrr0 := t.mcsrr0, mcsrr1 := s.msr, msr := 0, mcsr := t.mcsr, pc := s.vector .machineCheck,
                   freeIx := s.freeIx + 1 } ∧
      (s.pend.mcRecoverable = true → t.mcsrr0 = ret) ∧
      (s.pend.mcRecoverable = false → t.mcsrr0.toNat % 4 = 0)

/-- R215, R218, R227, R235 for the noncritical class; for critical input, watchdog, debug and machine check the entry is
that of R219 and R220 (the spec's decision D16, from general knowledge; PRESUMED, log 14): no interrupt entry changes a
general register, CR, LR, CTR, XER, IVPR, an IVOR, an SPRG, USPRG0 or memory, and each leaves the core in supervisor
mode. -/
def Obligations.InterruptEntryFrame : Prop :=
  ∀ (s : State) (t : IntType) (ret : Word) (e : Option Word),
    let u := s.takeInterrupt t ret e
    (∀ r, u.reg r = s.reg r) ∧ u.cr = s.cr ∧ u.lr = s.lr ∧ u.ctr = s.ctr ∧ u.xer = s.xer ∧
      u.ivpr = s.ivpr ∧ (∀ q, u.ivorOf q = s.ivorOf q) ∧ u.sprg = s.sprg ∧ u.usprg0 = s.usprg0 ∧
      u.dear = s.dear ∧ (∀ a, Memory.readByte u.mem a = Memory.readByte s.mem a) ∧ u.stored = s.stored ∧ u.pic = s.pic ∧
      u.pend = s.pend ∧ u.pr = false

/-- R212: each asynchronous condition is enabled exactly by its MSR bit (debug: DE and DBCR0[IDM], log 32) and pending
exactly by its pending state (critical input: the environment's part of `cint` or the PIC's, R54, R248, DEDUCED, log 31); what is taken at a boundary is both; with CE, EE, ME and DE all 0 nothing is taken. -/
def Obligations.OnlyEnabledInterruptsAreTaken : Prop :=
  (∀ s : State,
    (s.enabled .criticalInput = s.msr.getLsbD 17 ∧ s.pending .criticalInput = (s.pend.critInt || s.pic.critOut)) ∧
    (s.enabled .watchdog = s.msr.getLsbD 17 ∧ s.pending .watchdog = s.pend.wd) ∧
    (s.enabled .externalInput = s.msr.getLsbD 15 ∧ s.pending .externalInput = Pic.extInt s.config s.pic) ∧
    (s.enabled .decrementer = s.msr.getLsbD 15 ∧ s.pending .decrementer = s.pend.dec) ∧
    (s.enabled .fixedInterval = s.msr.getLsbD 15 ∧ s.pending .fixedInterval = s.pend.fit) ∧
    (s.enabled .performanceMonitor = s.msr.getLsbD 15 ∧ s.pending .performanceMonitor = s.pend.pm) ∧
    (s.enabled .machineCheck = s.msr.getLsbD 12 ∧ s.pending .machineCheck = s.pend.mc) ∧
    (s.enabled .debug = (s.msr.getLsbD 9 && s.dbcr0Idm) ∧ s.pending .debug = s.pend.dbg)) ∧
  (∀ (s : State) (a : AsyncInt), s.candidate = some a →
    match a with
    | .criticalInput => s.msr.getLsbD 17 = true ∧ (s.pend.critInt = true ∨ s.pic.critOut = true)
    | .watchdog => s.msr.getLsbD 17 = true ∧ s.pend.wd = true
    | .externalInput => s.msr.getLsbD 15 = true ∧ Pic.extInt s.config s.pic = true
    | .decrementer => s.msr.getLsbD 15 = true ∧ s.pend.dec = true
    | .fixedInterval => s.msr.getLsbD 15 = true ∧ s.pend.fit = true
    | .performanceMonitor => s.msr.getLsbD 15 = true ∧ s.pend.pm = true
    | .machineCheck => s.msr.getLsbD 12 = true ∧ s.pend.mc = true
    | .debug => s.msr.getLsbD 9 = true ∧ s.dbcr0Idm = true ∧ s.pend.dbg = true) ∧
  (∀ s : State, s.msr &&& 0x00029200 = 0 → s.candidate = none)

/-- R214 (the spec's decision D15): with the default INT_PRIORITY, nothing of higher priority than what is taken is
pending and enabled; and something is taken whenever anything is pending and enabled, whatever the parameter. When a
condition is pending and enabled: OnlyEnabledInterruptsAreTaken. -/
def Obligations.HighestPriorityIsTaken : Prop :=
  (∀ (s : State) (a c : AsyncInt), s.config.intPriority = Config.defaultPriority → s.candidate = some a →
    s.enabled c = true → s.pending c = true →
    [AsyncInt.machineCheck, .debug, .criticalInput, .watchdog, .externalInput, .fixedInterval, .decrementer,
      .performanceMonitor].idxOf a ≤
    [AsyncInt.machineCheck, .debug, .criticalInput, .watchdog, .externalInput, .fixedInterval, .decrementer,
      .performanceMonitor].idxOf c) ∧
  (∀ (s : State) (c : AsyncInt), s.enabled c = true → s.pending c = true → s.candidate.isSome = true)

/-- R217 (the spec's decision D13): a noncritical handler starts in supervisor mode with EE = 0; from EE = 0 only a step
that runs `mtmsr` or `rfi` leads to EE = 1 (software sets EE again); and while EE = 0 what a boundary takes is machine
check, debug, critical input or watchdog. -/
def Obligations.HandlerStartsWithExternalDisabled : Prop :=
  (∀ (s : State) (t : IntType) (ret : Word) (e : Option Word),
    t ∉ [IntType.criticalInput, .machineCheck, .watchdog, .debug] →
    (s.takeInterrupt t ret e).msr.getLsbD 15 = false ∧ (s.takeInterrupt t ret e).pr = false) ∧
  (∀ s t : State, s.msr.getLsbD 15 = false → step s = .next t → t.msr.getLsbD 15 = true →
    ∃ u w i, boundary s = .run u ∧ fetch u = .word w ∧ decode w = .ok i ∧ ((∃ r, i = .mtmsr r) ∨ i = .rfi)) ∧
  (∀ (s u : State) (a : AsyncInt), s.msr.getLsbD 15 = false → boundary s = .interrupt a u →
    a = .machineCheck ∨ a = .debug ∨ a = .criticalInput ∨ a = .watchdog)

/-! ## The interrupt controller -/

/-- R245: the map of the PIC's registers: each register is found at its offset, and at no other. -/
def Obligations.PicRegisterMap : Prop :=
  (∀ (off : Nat) (r : PicReg), picRegAt off = some r ↔ off = picRegOffset r) ∧
  picRegOffset .iack = 0x400A0 ∧
  (∀ n : Fin 12, picRegOffset (.eivpr n) = 0x50000 + 0x20 * n.val ∧
    picRegOffset (.eidr n) = 0x50010 + 0x20 * n.val) ∧
  (∀ n : Fin 64, picRegOffset (.iivpr n) = 0x50200 + 0x20 * n.val ∧
    picRegOffset (.iidr n) = 0x50210 + 0x20 * n.val)

/-- R250, R251 with the open comparisons off (the spec's decision D20; log 29): `int` is asserted exactly when some
source that is pending, unmasked and of nonzero priority has a destination that selects this core; the reserved
internal interrupt 11 is never pending. When a source is pending: PendingFollowsRequestInputs. The places of MSK, PRIORITY, P0
and P1 are those of R246 to R248 (PRESUMED, log 27); that P0 and P1 act whatever EP and CI hold is the model's reading
(DEDUCED, log 31). -/
def Obligations.IntOutputFollowsEligibleSources : Prop :=
  ∀ (c : Config) (p : Pic), c.taskPriority = 0 → c.inServiceMasks = false →
    (Pic.extInt c p = true ↔ ∃ s : Source, p.pending s = true ∧ (p.vpr s).getLsbD 31 = false ∧
      (p.vpr s).extractLsb' 16 4 ≠ 0 ∧
      ((c.coreId = 0 ∧ (p.dest s).getLsbD 0 = true) ∨ (c.coreId = 1 ∧ (p.dest s).getLsbD 1 = true))) ∧
    p.pending (.int 11) = false

/-- R250, R252 (from general knowledge, as the spec marks it; places of S and P as R246, log 27; what an edge is: DESIGN
CHOICE, log 28; internal sources level-sensitive: PRESUMED, log 28; acknowledging a parameter: log 30): an external
source is pending while its pin is at its active level if it is level-sensitive, and while its edge is latched if not; an
internal one while its input is at its active level. An event latches an edge exactly if it drives the pin from the
inactive to the active level, and clears a latched one exactly if it acknowledges that source. -/
def Obligations.PendingFollowsRequestInputs : Prop :=
  (∀ (p : Pic) (n : Fin 12), p.pending (.ext n) = true ↔
    if (p.vpr (.ext n)).getLsbD 22 then p.ext[n].pin = (p.vpr (.ext n)).getLsbD 23 else p.ext[n].edge = true) ∧
  (∀ (p : Pic) (n : Fin 64), p.pending (.int n) = true ↔
    n ≠ 11 ∧ p.int[n].pin = (p.vpr (.int n)).getLsbD 23) ∧
  (∀ (s : State) (n : Fin 12) (high : Bool), (s.applyEvent (.setPin (.ext n) high)).pic.ext[n].pin = high) ∧
  (∀ (s : State) (n : Fin 64) (high : Bool), (s.applyEvent (.setPin (.int n) high)).pic.int[n].pin = high) ∧
  (∀ (s : State) (e : EnvEvent) (n : Fin 12), s.pic.ext[n].edge = false →
    ((s.applyEvent e).pic.ext[n].edge = true ↔
      e = .setPin (.ext n) ((s.pic.vpr (.ext n)).getLsbD 23) ∧ (s.pic.vpr (.ext n)).getLsbD 22 = false ∧
        s.pic.ext[n].pin ≠ (s.pic.vpr (.ext n)).getLsbD 23)) ∧
  (∀ (s : State) (e : EnvEvent) (n : Fin 12), s.pic.ext[n].edge = true →
    ((s.applyEvent e).pic.ext[n].edge = false ↔
      e = .readIack ∧ s.config.iackAcknowledges = true ∧ Pic.highest s.config s.pic = some (.ext n)))

/-- R248, R208 (places of EP and CI, R246's of MSK and PRIORITY: PRESUMED, log 27; that `cint` and IRQ_OUT need an eligible
source: DEDUCED, log 31; that CI reaches the modelled core whatever its number and P0 and P1, and that the comparisons of
R251 do not bear on `cint`: DESIGN CHOICE, log 31): the PIC asserts `cint`, and IRQ_OUT, exactly when some source that is pending, unmasked and of nonzero priority has
the CI, or EP, bit of its destination set; that `cint` makes critical input pending is OnlyEnabledInterruptsAreTaken. -/
def Obligations.CriticalOutputFollowsDestinations : Prop :=
  ∀ p : Pic,
    let directs := fun (bit : Nat) => ∃ s : Source, p.pending s = true ∧ (p.vpr s).getLsbD 31 = false ∧
      (p.vpr s).extractLsb' 16 4 ≠ 0 ∧ (p.dest s).getLsbD bit = true
    (p.critOut = true ↔ directs 30) ∧ (p.irqOut = true ↔ directs 31)

/-- R54, R243, R7 (the spec's decision D24; the form of the events is the model's, log 12; service and acknowledgement:
R252, log 30; that the machine-check event carries whether the error is recoverable is log 15, and that PIC_IACK holds
what its last read returned and keeps it otherwise is log 37, both DESIGN CHOICE): each event that makes a condition outside the PIC pending or not sets its own flag and nothing else; a PIC
event changes the PIC alone: driving an input changes that source's input and latched edge (which:
PendingFollowsRequestInputs), an end of service that source's service, a read of PIC_IACK the service and edge of the
source it acknowledges, and PIC_IACK. -/
def Obligations.EventsChangeTheirOwnCondition : Prop :=
  (∀ (s : State) (l r : Bool),
    s.applyEvent (.setCritInt l) = { s with pend := { s.pend with critInt := l } } ∧
    s.applyEvent (.setMachineCheck l r) = { s with pend := { s.pend with mc := l, mcRecoverable := r } } ∧
    s.applyEvent (.setDecrementer l) = { s with pend := { s.pend with dec := l } } ∧
    s.applyEvent (.setFixedInterval l) = { s with pend := { s.pend with fit := l } } ∧
    s.applyEvent (.setWatchdog l) = { s with pend := { s.pend with wd := l } } ∧
    s.applyEvent (.setPerformanceMonitor l) = { s with pend := { s.pend with pm := l } } ∧
    s.applyEvent (.setDebug l) = { s with pend := { s.pend with dbg := l } }) ∧
  ∀ (s : State) (e : EnvEvent), e = .readIack ∨ (∃ src, e = .endOfService src ∨ ∃ high, e = .setPin src high) →
    let t := s.applyEvent e
    t = { s with pic := t.pic } ∧
    (∀ q, t.pic.vpr q = s.pic.vpr q ∧ t.pic.dest q = s.pic.dest q) ∧
    (∀ q, t.pic.inService q = true ↔ e ≠ .endOfService q ∧ (s.pic.inService q = true ∨
      (e = .readIack ∧ s.config.iackAcknowledges = true ∧ Pic.highest s.config s.pic = some q))) ∧
    (∀ n : Fin 12, (∀ high, e ≠ .setPin (.ext n) high) → t.pic.ext[n].pin = s.pic.ext[n].pin) ∧
    (∀ n : Fin 64, (∀ high, e ≠ .setPin (.int n) high) → t.pic.int[n].pin = s.pic.int[n].pin) ∧
    t.pic.iack = if e = .readIack then (Pic.readIack s.config s.pic).1 else s.pic.iack

/-- R252 (tie-break and spurious vector: log 30): a read of PIC_IACK returns `0x0000 || VECTOR` of an eligible source
that selects this core and whose PRIORITY no such source exceeds, whenever there is one. -/
def Obligations.IackReturnsHighestVector : Prop :=
  ∀ (c : Config) (p : Pic), (∃ s, s ∈ Pic.requests c p) →
    ∃ s, p.eligible s = true ∧ destSelects (p.dest s) c.coreId = true ∧
      (∀ q, p.eligible q = true → destSelects (p.dest q) c.coreId = true →
        ((p.vpr q).extractLsb' 16 4).toNat ≤ ((p.vpr s).extractLsb' 16 4).toNat) ∧
      (Pic.readIack c p).1.toNat = (p.vpr s).toNat % 2 ^ 16

/-! ## Reset -/

/-- R260, for any parameters: the values the spec states; nothing pending is its decisions D20 and D24. -/
def Obligations.ResetValues : Prop :=
  ∀ c : Config,
    (State.resetWith c).pc = c.resetPc ∧ (State.resetWith c).msr = 0 ∧
    (∀ t, (State.resetWith c).ivorOf t = 0) ∧
    (∀ n, (State.resetWith c).pic.vpr (.ext n) = 0x80000000) ∧
    (∀ n, (State.resetWith c).pic.vpr (.int n) = 0x80800000) ∧
    (∀ src, (State.resetWith c).pic.dest src = 0x00000001) ∧
    (State.resetWith c).pic.iack = 0 ∧
    (∀ src, (State.resetWith c).pic.pending src = false ∧ (State.resetWith c).pic.inService src = false) ∧
    (∀ a, (State.resetWith c).pending a = false) ∧ (State.resetWith c).pr = false ∧
    (State.resetWith c).pvr = (if c.variant = .e500v1 then 0x80200010 else 0x80210010)

/-- R260's consequence: whatever the environment does, no asynchronous interrupt is taken from the reset state, and no
PIC source is eligible, until software has written the MSR and the source's register. -/
def Obligations.NothingIsTakenAfterReset : Prop :=
  ∀ (c : Config) (es : List EnvEvent),
    ((State.resetWith c).applyEvents es).candidate = none ∧
    ∀ src, ((State.resetWith c).applyEvents es).pic.eligible src = false

/-! ## The whole machine -/

/-- The invariant holds right after reset, if the reset address is a multiple of 4; the values of the registers the
spec gives no reset value are the model's (log 1). -/
def Obligations.InvariantAtReset : Prop :=
  (∀ c : Config, c.resetPc.toNat % 4 = 0 → (State.resetWith c).Inv) ∧ State.reset.Inv

/-- Every step that goes on keeps the invariant: `pc` a multiple of 4 (R25), MSR reserved bits and WE 0 (R40), IVPR
and IVOR masks (R42, R43), memory and the record of stores canonical, the PIC's registers only their fields (R249). -/
def Obligations.StepKeepsInvariant : Prop :=
  ∀ s t : State, s.Inv → step s = .next t → t.Inv

/-- No step changes the parameters of R6. -/
def Obligations.StepKeepsConfig : Prop := ∀ s t : State, step s = .next t → t.config = s.config

/-- R235, R172, R215, and R219 and R220 (the spec's decision D16, from general knowledge; PRESUMED, log 14) where the
entry is of the critical or the machine-check class: a step from user mode either stays in user mode and changes no
supervisor register, or enters supervisor mode at an interrupt's vector, with the old MSR saved and the vectors as
supervisor software set them. -/
def Obligations.UserModeIsConfined : Prop :=
  ∀ s t : State, s.pr = true → step s = .next t →
    (t.pr = true ∧ t.supervisorRegs = s.supervisorRegs ∧ t.dbcr0Idm = s.dbcr0Idm) ∨
    (t.pr = false ∧ (∃ n : IntType, t.pc = s.vector n) ∧
      (t.srr1 = s.msr ∨ t.csrr1 = s.msr ∨ t.mcsrr1 = s.msr) ∧
      t.ivpr = s.ivpr ∧ t.ivor = s.ivor ∧ t.sprg = s.sprg ∧ t.dear = s.dear ∧ t.dbcr0Idm = s.dbcr0Idm)

/-- R37, R223: of the instructions only `mtmsr`, `rfi`, `sc` and a privileged one in user mode change the MSR; a step
changes it only so, or by taking an asynchronous interrupt at the boundary (R215; R219, R220 by the spec's decision D16,
PRESUMED, log 14). -/
def Obligations.OnlyTheseChangeTheMsr : Prop :=
  (∀ (i : Instr) (s t : State), exec i s = .next t → t.msr ≠ s.msr →
    (∃ r, i = .mtmsr r) ∨ i = .rfi ∨ i = .sc ∨ (privileged i = true ∧ s.pr = true)) ∧
  (∀ s t : State, step s = .next t → t.msr ≠ s.msr →
    (∃ a u, boundary s = .interrupt a u) ∨
    ∃ u w i, boundary s = .run u ∧ fetch u = .word w ∧ decode w = .ok i ∧
      ((∃ r, i = .mtmsr r) ∨ i = .rfi ∨ i = .sc ∨ (privileged i = true ∧ s.pr = true)))

/-- R26 to R29, R36: the only writers of CR (`rlwinm.`, and of cr0 alone), LR (`bl`, `bla`, `bclrl`, `mtspr 8`), CTR
(`bclr` forms that decrement, `mtspr 9`) and XER (`mtspr 1`); nothing writes USPRG0. -/
def Obligations.OnlyTheseWriteUserRegisters : Prop :=
  ∀ (i : Instr) (s t : State), exec i s = .next t →
    (t.cr ≠ s.cr → (∃ rs ra sh mb me, i = .rlwinm rs ra sh mb me true) ∧
      t.cr.extractLsb' 0 28 = s.cr.extractLsb' 0 28) ∧
    (t.lr ≠ s.lr → (∃ li aa, i = .b li aa true) ∨ (∃ bo bi, i = .bclr bo bi true) ∨ ∃ rs, i = .mtspr 8 rs) ∧
    (t.ctr ≠ s.ctr → (∃ bo bi lk, i = .bclr bo bi lk ∧ bo.getLsbD 2 = false) ∨ ∃ rs, i = .mtspr 9 rs) ∧
    (t.xer ≠ s.xer → ∃ rs, i = .mtspr 1 rs) ∧ t.usprg0 = s.usprg0

/-- R222: no interrupt and no instruction but `mtspr 61` writes DEAR. -/
def Obligations.DearIsWrittenOnlyByMtspr : Prop :=
  ∀ s t : State, step s = .next t → t.dear ≠ s.dear →
    ∃ u w rs, boundary s = .run u ∧ fetch u = .word w ∧ decode w = .ok (.mtspr 61 rs)

/-- An instruction writes no general register but its target (R140 to R174). -/
def Obligations.OnlyTheTargetRegisterChanges : Prop :=
  ∀ (i : Instr) (s t : State) (r : Reg), exec i s = .next t → destReg i ≠ some r → t.reg r = s.reg r

/-- Of the instructions in scope only `stwu` writes memory or a PIC register (R80, R86): after any other, every byte
reads as before. -/
def Obligations.OnlyStwuWritesMemory : Prop :=
  ∀ (i : Instr) (s t : State), exec i s = .next t → (∀ rs ra d, i ≠ .stwu rs ra d) →
    (∀ a, Memory.readByte t.mem a = Memory.readByte s.mem a) ∧ t.stored = s.stored ∧ t.pic = s.pic
end

