-- ==== Sys2Proof/Laws/Decode.lean ====
section
/-!
SUPPORT. The decoder by rows (spec R120 to R122): no word matches two rows, a word that matches a row decodes by it, and a
word that decodes matches a row.
-/

namespace Sys2Proof

/-- Two rows that one word matches agree on the bits both masks test. -/
theorem patterns_agree {w p m q n : Word} (hp : w &&& m = p) (hq : w &&& n = q) : p &&& n = q &&& m := by
  rw [← hp, ← hq, BitVec.and_assoc, BitVec.and_assoc, BitVec.and_comm m n]

/-- Any two rows of the table differ on a bit both masks test. -/
theorem opRows_disjoint :
    opRows.Pairwise (fun r q => r.pattern &&& q.mask ≠ q.pattern &&& r.mask) := by decide

/-- A word that matches a row of a list in which no two rows match one word is found there. -/
theorem find_of_pairwise (l : List OpRow) (r : OpRow) (w : Word)
    (hl : l.Pairwise (fun r q => r.pattern &&& q.mask ≠ q.pattern &&& r.mask))
    (hr : r ∈ l) (hw : w &&& r.mask = r.pattern) :
    l.find? (fun r => w &&& r.mask == r.pattern) = some r := by
  induction l with
  | nil => simp at hr
  | cons q l ih =>
    rw [List.pairwise_cons] at hl
    rcases List.mem_cons.mp hr with rfl | hr
    · simp [hw]
    · have hq : (w &&& q.mask == q.pattern) = false := by
        rw [beq_eq_false_iff_ne]
        exact fun h => hl.1 r hr (patterns_agree h hw)
      rw [List.find?_cons, hq]
      exact ih hl.2 hr

/-- A word that matches a row of the opcode map decodes by that row. -/
theorem decode_of_row {r : OpRow} {w : Word} (hr : r ∈ opRows) (hw : w &&& r.mask = r.pattern) :
    decode w = .ok (r.build w) := by
  simp only [decode, find_of_pairwise opRows r w opRows_disjoint hr hw]

/-- A word that decodes matches the row it decodes by. -/
theorem decode_eq_ok {w : Word} {i : Instr} (h : decode w = .ok i) :
    ∃ r ∈ opRows, w &&& r.mask = r.pattern ∧ r.build w = i := by
  unfold decode at h
  split at h
  · rename_i r hr
    exact ⟨r, List.mem_of_find?_eq_some hr, by simpa using List.find?_some hr, by simpa using h⟩
  · cases h

/-- A word that matches no row is rejected. -/
theorem decode_eq_error {w : Word} (h : ∀ r ∈ opRows, w &&& r.mask ≠ r.pattern) :
    decode w = .error (.notInSpec w) := by
  have hn : opRows.find? (fun r => w &&& r.mask == r.pattern) = none := by
    simpa using h
  simp only [decode, hn]

/-! ### One lemma per row -/

theorem decode_addi {w : Word} (h : w &&& 0xFC000000 = 0x38000000) :
    decode w = .ok (.addi (field5 w 21) (field5 w 16) (field16 w)) :=
  decode_of_row (r := opRows[0]) (by simp [opRows]) h

theorem decode_addis {w : Word} (h : w &&& 0xFC000000 = 0x3C000000) :
    decode w = .ok (.addis (field5 w 21) (field5 w 16) (field16 w)) :=
  decode_of_row (r := opRows[1]) (by simp [opRows]) h

theorem decode_sc {w : Word} (h : w &&& 0xFFFFFFFF = 0x44000002) : decode w = .ok .sc :=
  decode_of_row (r := opRows[2]) (by simp [opRows]) h

theorem decode_b {w : Word} (h : w &&& 0xFC000000 = 0x48000000) :
    decode w = .ok (.b (w.extractLsb' 2 24) (w.getLsbD 1) (w.getLsbD 0)) :=
  decode_of_row (r := opRows[3]) (by simp [opRows]) h

theorem decode_bclr {w : Word} (h : w &&& 0xFC00FFFE = 0x4C000020) :
    decode w = .ok (.bclr (w.extractLsb' 21 5) (field5 w 16) (w.getLsbD 0)) :=
  decode_of_row (r := opRows[4]) (by simp [opRows]) h

theorem decode_rfi {w : Word} (h : w &&& 0xFFFFFFFF = 0x4C000064) : decode w = .ok .rfi :=
  decode_of_row (r := opRows[5]) (by simp [opRows]) h

theorem decode_rlwinm {w : Word} (h : w &&& 0xFC000000 = 0x54000000) :
    decode w = .ok (.rlwinm (field5 w 21) (field5 w 16) (field5 w 11) (field5 w 6) (field5 w 1) (w.getLsbD 0)) :=
  decode_of_row (r := opRows[6]) (by simp [opRows]) h

theorem decode_ori {w : Word} (h : w &&& 0xFC000000 = 0x60000000) :
    decode w = .ok (.ori (field5 w 21) (field5 w 16) (field16 w)) :=
  decode_of_row (r := opRows[7]) (by simp [opRows]) h

theorem decode_mfmsr {w : Word} (h : w &&& 0xFC1FFFFF = 0x7C0000A6) : decode w = .ok (.mfmsr (field5 w 21)) :=
  decode_of_row (r := opRows[8]) (by simp [opRows]) h

theorem decode_mtmsr {w : Word} (h : w &&& 0xFC1FFFFF = 0x7C000124) : decode w = .ok (.mtmsr (field5 w 21)) :=
  decode_of_row (r := opRows[9]) (by simp [opRows]) h

theorem decode_mfspr {w : Word} (h : w &&& 0xFC0007FF = 0x7C0002A6) :
    decode w = .ok (.mfspr (field5 w 21) (fieldSpr w)) :=
  decode_of_row (r := opRows[10]) (by simp [opRows]) h

theorem decode_mtspr {w : Word} (h : w &&& 0xFC0007FF = 0x7C0003A6) :
    decode w = .ok (.mtspr (fieldSpr w) (field5 w 21)) :=
  decode_of_row (r := opRows[11]) (by simp [opRows]) h

theorem decode_stwu {w : Word} (h : w &&& 0xFC000000 = 0x94000000) :
    decode w = .ok (.stwu (field5 w 21) (field5 w 16) (field16 w)) :=
  decode_of_row (r := opRows[12]) (by simp [opRows]) h

/-! ### Bytes and words -/

theorem wordOfBytes_bytesOfWord_append (w : Word) (rest : List Byte) :
    decodeBytes (bytesOfWord w ++ rest) =
      match decode (wordOfBytes (w.extractLsb' 24 8) (w.extractLsb' 16 8) (w.extractLsb' 8 8) (w.extractLsb' 0 8)) with
      | .ok i => .ok (i, rest)
      | .error e => .error e := rfl

/-! ### Fields of an append -/

theorem extractLsb'_eq_of_bits {n m : Nat} (x : BitVec n) (lo : Nat) (y : BitVec m)
    (h : ∀ i < m, x.getLsbD (lo + i) = y.getLsbD i) : x.extractLsb' lo m = y := by
  apply BitVec.eq_of_getLsbD_eq
  intro i hi
  simp [hi, h i hi]

theorem field5_eq_of_bits (x : Word) (lo : Nat) (r : Fin 32)
    (h : ∀ i < 5, x.getLsbD (lo + i) = (bits5 r).getLsbD i) : field5 x lo = r := by
  unfold field5; rw [extractLsb'_eq_of_bits x lo (bits5 r) h]; rfl

@[simp] theorem bits5_field5 (w : Word) (lo : Nat) : bits5 (field5 w lo) = w.extractLsb' lo 5 := rfl

end Sys2Proof
end

