-- ==== Sys2Proof/Laws/Memory.lean ====
section
/-!
SUPPORT. The laws of memory: reading after writing, every operation keeps the canonical form, and the big-endian word
operations in terms of bytes (spec R81).
-/

namespace Sys2Proof.Machine

/-! ### Bytes -/

theorem readByte_writeByte (m : Memory) (a b : Nat) (v : Byte) :
    Memory.readByte (Memory.writeByte m a v) b = if b = a then some v else Memory.readByte m b := by
  induction m with
  | nil => simp [Memory.writeByte, Memory.readByte, eq_comm]
  | cons p m ih =>
    obtain ⟨k, w⟩ := p
    simp only [Memory.writeByte]
    split
    · simp [Memory.readByte]
    · split
      · subst k
        by_cases h : b = a <;> simp [Memory.readByte, h]
      · rename_i h1 h2
        by_cases h : b = a
        · subst h; simp [Memory.readByte, h2, ih]
        · simp [Memory.readByte, ih, h]

/-- A memory in canonical form whose first address lies above `k`. -/
theorem wf_cons_iff (k : Nat) (v : Byte) (m : Memory) :
    Memory.wf ((k, v) :: m) = true ↔
      k < 2 ^ 32 ∧ Memory.wf m = true ∧ ∀ p ∈ m.head?, k < p.1 := by
  induction m generalizing k v with
  | nil => simp [Memory.wf]
  | cons p m ih =>
    obtain ⟨b, w⟩ := p
    have hb := ih b w
    simp only [Memory.wf, Bool.and_eq_true, decide_eq_true_eq, List.head?_cons, Option.mem_def,
      Option.some.injEq, forall_eq']
    constructor
    · rintro ⟨h1, h2⟩
      exact ⟨by have := (hb.mp h2).1; omega, h2, h1⟩
    · rintro ⟨_, h2, h1⟩
      exact ⟨h1, h2⟩

theorem head_writeByte (m : Memory) (a : Nat) (v : Byte) (k : Nat) (hk : k < a)
    (h : ∀ p ∈ m.head?, k < p.1) : ∀ p ∈ (Memory.writeByte m a v).head?, k < p.1 := by
  cases m with
  | nil => simpa [Memory.writeByte] using hk
  | cons q m =>
    obtain ⟨b, w⟩ := q
    simp only [Memory.writeByte]
    split
    · simpa using hk
    · split
      · simpa using hk
      · simpa using h

theorem wf_writeByte (m : Memory) (a : Nat) (v : Byte) (ha : a < 2 ^ 32) (h : Memory.wf m = true) :
    Memory.wf (Memory.writeByte m a v) = true := by
  induction m with
  | nil => simpa [Memory.writeByte, Memory.wf] using ha
  | cons q m ih =>
    obtain ⟨k, w⟩ := q
    obtain ⟨hk, hm, hh⟩ := (wf_cons_iff k w m).mp h
    simp only [Memory.writeByte]
    split
    · exact (wf_cons_iff a v _).mpr ⟨ha, h, by simpa using ‹a < k›⟩
    · split
      · subst k; exact (wf_cons_iff a v m).mpr ⟨ha, hm, hh⟩
      · exact (wf_cons_iff k w _).mpr ⟨hk, ih hm, head_writeByte m a v k (by omega) hh⟩

/-! ### Word addresses -/

theorem byteAddr_lt (a : Word) (i : Nat) : byteAddr a i < 2 ^ 32 := (a + BitVec.ofNat 32 i).isLt

theorem byteAddr_eq (a : Word) (i : Nat) : byteAddr a i = (a.toNat + i) % 2 ^ 32 := by
  simp [byteAddr, BitVec.toNat_add]

theorem byteAddr_ne (a : Word) {i j : Nat} (hi : i < 4) (hj : j < 4) (h : i ≠ j) :
    byteAddr a i ≠ byteAddr a j := by
  rw [byteAddr_eq, byteAddr_eq]
  have := a.isLt
  omega

theorem isWordByte_iff (a : Word) (x : Nat) :
    isWordByte a x = true ↔ ∃ i < 4, x = byteAddr a i := by
  simp only [isWordByte, Bool.or_eq_true, beq_iff_eq]
  constructor
  · rintro (((h | h) | h) | h)
    exacts [⟨0, by omega, h⟩, ⟨1, by omega, h⟩, ⟨2, by omega, h⟩, ⟨3, by omega, h⟩]
  · rintro ⟨i, hi, h⟩
    obtain rfl | rfl | rfl | rfl : i = 0 ∨ i = 1 ∨ i = 2 ∨ i = 3 := by omega
    all_goals simp [h]

/-! ### Words -/

theorem readByte_writeWord_ne (m : Memory) (a v : Word) (x : Nat) (h : isWordByte a x = false) :
    Memory.readByte (Memory.writeWord m a v) x = Memory.readByte m x := by
  simp only [isWordByte, Bool.or_eq_false_iff, beq_eq_false_iff_ne] at h
  simp [Memory.writeWord, readByte_writeByte, h]

theorem readByte_writeWord (m : Memory) (a v : Word) (i : Nat) (hi : i < 4) :
    Memory.readByte (Memory.writeWord m a v) (byteAddr a i) = some (v.extractLsb' (24 - 8 * i) 8) := by
  have n01 := byteAddr_ne a (i := 0) (j := 1) (by omega) (by omega) (by omega)
  have n02 := byteAddr_ne a (i := 0) (j := 2) (by omega) (by omega) (by omega)
  have n03 := byteAddr_ne a (i := 0) (j := 3) (by omega) (by omega) (by omega)
  have n12 := byteAddr_ne a (i := 1) (j := 2) (by omega) (by omega) (by omega)
  have n13 := byteAddr_ne a (i := 1) (j := 3) (by omega) (by omega) (by omega)
  have n23 := byteAddr_ne a (i := 2) (j := 3) (by omega) (by omega) (by omega)
  obtain rfl | rfl | rfl | rfl : i = 0 ∨ i = 1 ∨ i = 2 ∨ i = 3 := by omega
  all_goals simp [Memory.writeWord, readByte_writeByte, *]

theorem wordOfBytes_extract (v : Word) :
    wordOfBytes (v.extractLsb' 24 8) (v.extractLsb' 16 8) (v.extractLsb' 8 8) (v.extractLsb' 0 8) = v := by
  apply BitVec.eq_of_getLsbD_eq
  intro i hi
  simp only [wordOfBytes, BitVec.getLsbD_append, BitVec.getLsbD_extractLsb']
  by_cases h1 : i < 8
  · simp [h1]
  · by_cases h2 : i < 16
    · have : i - 8 < 8 := by omega
      simp [h1, this, show 8 + (i - 8) = i by omega]
    · by_cases h3 : i < 24
      · have a1 : ¬ (i - 8 < 8) := by omega
        have a2 : i - 8 - 8 < 8 := by omega
        simp [h1, a1, a2, show 16 + (i - 8 - 8) = i by omega]
      · have a1 : ¬ (i - 8 < 8) := by omega
        have a2 : ¬ (i - 8 - 8 < 8) := by omega
        have a3 : i - 8 - 8 - 8 < 8 := by omega
        simp [h1, a1, a2, a3, show 24 + (i - 8 - 8 - 8) = i by omega]

theorem readWord_writeWord (m : Memory) (a v : Word) :
    Memory.readWord (Memory.writeWord m a v) a = some v := by
  simp [Memory.readWord, readByte_writeWord, wordOfBytes_extract]

theorem readWord_some {m : Memory} {a w : Word} (h : Memory.readWord m a = some w) :
    ∃ b0 b1 b2 b3, Memory.readByte m (byteAddr a 0) = some b0 ∧ Memory.readByte m (byteAddr a 1) = some b1 ∧
      Memory.readByte m (byteAddr a 2) = some b2 ∧ Memory.readByte m (byteAddr a 3) = some b3 ∧
      w = wordOfBytes b0 b1 b2 b3 := by
  simp only [Memory.readWord] at h
  split at h
  · exact ⟨_, _, _, _, ‹_›, ‹_›, ‹_›, ‹_›, by simpa using h.symm⟩
  · exact absurd h (by simp)

theorem wf_writeWord (m : Memory) (a v : Word) (h : Memory.wf m = true) :
    Memory.wf (Memory.writeWord m a v) = true := by
  unfold Memory.writeWord
  iterate 4 apply wf_writeByte _ _ _ (byteAddr_lt a _)
  exact h

/-! ### The record of written addresses -/

theorem mem_addAddr (l : List Nat) (a x : Nat) : x ∈ addAddr l a ↔ x = a ∨ x ∈ l := by
  induction l with
  | nil => simp [addAddr]
  | cons k l ih =>
    simp only [addAddr]
    split
    · simp
    · split
      · subst k; simp
      · simp only [List.mem_cons, ih]; tauto

theorem mem_addWordAddrs (l : List Nat) (a : Word) (x : Nat) :
    x ∈ addWordAddrs l a ↔ isWordByte a x = true ∨ x ∈ l := by
  simp only [addWordAddrs, mem_addAddr, isWordByte, Bool.or_eq_true, beq_iff_eq]
  tauto

theorem addrsWf_cons_iff (k : Nat) (l : List Nat) :
    addrsWf (k :: l) = true ↔ k < 2 ^ 32 ∧ addrsWf l = true ∧ ∀ p ∈ l.head?, k < p := by
  induction l generalizing k with
  | nil => simp [addrsWf]
  | cons b l ih =>
    have hb := ih b
    simp only [addrsWf, Bool.and_eq_true, decide_eq_true_eq, List.head?_cons, Option.mem_def,
      Option.some.injEq, forall_eq']
    constructor
    · rintro ⟨h1, h2⟩
      exact ⟨by have := (hb.mp h2).1; omega, h2, h1⟩
    · rintro ⟨_, h2, h1⟩
      exact ⟨h1, h2⟩

theorem addrsWf_addAddr (l : List Nat) (a : Nat) (ha : a < 2 ^ 32) (h : addrsWf l = true) :
    addrsWf (addAddr l a) = true := by
  induction l with
  | nil => simpa [addAddr, addrsWf] using ha
  | cons k l ih =>
    obtain ⟨hk, hl, hh⟩ := (addrsWf_cons_iff k l).mp h
    simp only [addAddr]
    split
    · exact (addrsWf_cons_iff a _).mpr ⟨ha, h, by simpa using ‹a < k›⟩
    · split
      · exact h
      · refine (addrsWf_cons_iff k _).mpr ⟨hk, ih hl, ?_⟩
        cases l with
        | nil => simp [addAddr]; omega
        | cons b l =>
          simp only [addAddr]
          split
          · simp; omega
          · split
            · simpa using hh
            · simpa using hh

theorem addrsWf_addWordAddrs (l : List Nat) (a : Word) (h : addrsWf l = true) :
    addrsWf (addWordAddrs l a) = true := by
  unfold addWordAddrs
  iterate 4 apply addrsWf_addAddr _ _ (byteAddr_lt a _)
  exact h

/-! ### `storeMem`, `loadWord`, `fetch` -/

theorem storeMem_readByte_ne (s : State) (a v : Word) (x : Nat) (h : isWordByte a x = false) :
    Memory.readByte (s.storeMem a v).mem x = Memory.readByte s.mem x :=
  readByte_writeWord_ne s.mem a v x h

theorem storeMem_readByte (s : State) (a v : Word) (i : Nat) (hi : i < 4) :
    Memory.readByte (s.storeMem a v).mem (byteAddr a i) = some (v.extractLsb' (24 - 8 * i) 8) :=
  readByte_writeWord s.mem a v i hi

theorem loadWord_wf (s : State) (a w : Word) (h : Memory.wf s.mem = true) :
    Memory.wf (s.loadWord a w).mem = true := wf_writeWord s.mem a w h

theorem storeMem_wf (s : State) (a v : Word) (h : Memory.wf s.mem = true) :
    Memory.wf (s.storeMem a v).mem = true := wf_writeWord s.mem a v h

theorem fetchesModified_eq_false_iff (s : State) :
    s.fetchesModified = false ↔ ∀ x ∈ s.stored, isWordByte s.pc x = false := by
  simp [State.fetchesModified]

/-- A fetch gives a word exactly when the word is in memory, unmodified and written. -/
theorem fetch_eq_word_iff (s : State) (w : Word) :
    fetch s = .word w ↔ isMemWord s.config s.pc = true ∧ s.fetchesModified = false ∧
      Memory.readWord s.mem s.pc = some w := by
  unfold fetch
  cases isMemWord s.config s.pc <;> cases s.fetchesModified <;> cases Memory.readWord s.mem s.pc <;> simp

end Sys2Proof.Machine
end

