-- ==== Sys2Proof/Laws/State.lean ====
section
/-!
SUPPORT. One lemma per field of `State` and per named update: what the update leaves in the field.  The provers' simp set
for states.
-/

namespace Sys2Proof.Machine

/-! ### `setReg`, `advance`, `writeMsr`, `recordCr0`, `link` -/

@[simp] theorem setReg_config (s : State) (r : Reg) (v : Word) : (s.setReg r v).config = s.config := rfl
@[simp] theorem setReg_gpr (s : State) (r : Reg) (v : Word) : (s.setReg r v).gpr = s.gpr.set r v := rfl
@[simp] theorem setReg_pc (s : State) (r : Reg) (v : Word) : (s.setReg r v).pc = s.pc := rfl
@[simp] theorem setReg_cr (s : State) (r : Reg) (v : Word) : (s.setReg r v).cr = s.cr := rfl
@[simp] theorem setReg_lr (s : State) (r : Reg) (v : Word) : (s.setReg r v).lr = s.lr := rfl
@[simp] theorem setReg_ctr (s : State) (r : Reg) (v : Word) : (s.setReg r v).ctr = s.ctr := rfl
@[simp] theorem setReg_xer (s : State) (r : Reg) (v : Word) : (s.setReg r v).xer = s.xer := rfl
@[simp] theorem setReg_msr (s : State) (r : Reg) (v : Word) : (s.setReg r v).msr = s.msr := rfl
@[simp] theorem setReg_ivpr (s : State) (r : Reg) (v : Word) : (s.setReg r v).ivpr = s.ivpr := rfl
@[simp] theorem setReg_ivor (s : State) (r : Reg) (v : Word) : (s.setReg r v).ivor = s.ivor := rfl
@[simp] theorem setReg_srr0 (s : State) (r : Reg) (v : Word) : (s.setReg r v).srr0 = s.srr0 := rfl
@[simp] theorem setReg_srr1 (s : State) (r : Reg) (v : Word) : (s.setReg r v).srr1 = s.srr1 := rfl
@[simp] theorem setReg_csrr0 (s : State) (r : Reg) (v : Word) : (s.setReg r v).csrr0 = s.csrr0 := rfl
@[simp] theorem setReg_csrr1 (s : State) (r : Reg) (v : Word) : (s.setReg r v).csrr1 = s.csrr1 := rfl
@[simp] theorem setReg_mcsrr0 (s : State) (r : Reg) (v : Word) : (s.setReg r v).mcsrr0 = s.mcsrr0 := rfl
@[simp] theorem setReg_mcsrr1 (s : State) (r : Reg) (v : Word) : (s.setReg r v).mcsrr1 = s.mcsrr1 := rfl
@[simp] theorem setReg_esr (s : State) (r : Reg) (v : Word) : (s.setReg r v).esr = s.esr := rfl
@[simp] theorem setReg_dear (s : State) (r : Reg) (v : Word) : (s.setReg r v).dear = s.dear := rfl
@[simp] theorem setReg_mcsr (s : State) (r : Reg) (v : Word) : (s.setReg r v).mcsr = s.mcsr := rfl
@[simp] theorem setReg_sprg (s : State) (r : Reg) (v : Word) : (s.setReg r v).sprg = s.sprg := rfl
@[simp] theorem setReg_usprg0 (s : State) (r : Reg) (v : Word) : (s.setReg r v).usprg0 = s.usprg0 := rfl
@[simp] theorem setReg_dbcr0Idm (s : State) (r : Reg) (v : Word) : (s.setReg r v).dbcr0Idm = s.dbcr0Idm := rfl
@[simp] theorem setReg_mem (s : State) (r : Reg) (v : Word) : (s.setReg r v).mem = s.mem := rfl
@[simp] theorem setReg_stored (s : State) (r : Reg) (v : Word) : (s.setReg r v).stored = s.stored := rfl
@[simp] theorem setReg_pic (s : State) (r : Reg) (v : Word) : (s.setReg r v).pic = s.pic := rfl
@[simp] theorem setReg_pend (s : State) (r : Reg) (v : Word) : (s.setReg r v).pend = s.pend := rfl
@[simp] theorem setReg_inputs (s : State) (r : Reg) (v : Word) : (s.setReg r v).inputs = s.inputs := rfl
@[simp] theorem setReg_freeIx (s : State) (r : Reg) (v : Word) : (s.setReg r v).freeIx = s.freeIx := rfl

@[simp] theorem advance_config (s : State) : (s.advance).config = s.config := rfl
@[simp] theorem advance_gpr (s : State) : (s.advance).gpr = s.gpr := rfl
@[simp] theorem advance_pc (s : State) : (s.advance).pc = s.pc + 4 := rfl
@[simp] theorem advance_cr (s : State) : (s.advance).cr = s.cr := rfl
@[simp] theorem advance_lr (s : State) : (s.advance).lr = s.lr := rfl
@[simp] theorem advance_ctr (s : State) : (s.advance).ctr = s.ctr := rfl
@[simp] theorem advance_xer (s : State) : (s.advance).xer = s.xer := rfl
@[simp] theorem advance_msr (s : State) : (s.advance).msr = s.msr := rfl
@[simp] theorem advance_ivpr (s : State) : (s.advance).ivpr = s.ivpr := rfl
@[simp] theorem advance_ivor (s : State) : (s.advance).ivor = s.ivor := rfl
@[simp] theorem advance_srr0 (s : State) : (s.advance).srr0 = s.srr0 := rfl
@[simp] theorem advance_srr1 (s : State) : (s.advance).srr1 = s.srr1 := rfl
@[simp] theorem advance_csrr0 (s : State) : (s.advance).csrr0 = s.csrr0 := rfl
@[simp] theorem advance_csrr1 (s : State) : (s.advance).csrr1 = s.csrr1 := rfl
@[simp] theorem advance_mcsrr0 (s : State) : (s.advance).mcsrr0 = s.mcsrr0 := rfl
@[simp] theorem advance_mcsrr1 (s : State) : (s.advance).mcsrr1 = s.mcsrr1 := rfl
@[simp] theorem advance_esr (s : State) : (s.advance).esr = s.esr := rfl
@[simp] theorem advance_dear (s : State) : (s.advance).dear = s.dear := rfl
@[simp] theorem advance_mcsr (s : State) : (s.advance).mcsr = s.mcsr := rfl
@[simp] theorem advance_sprg (s : State) : (s.advance).sprg = s.sprg := rfl
@[simp] theorem advance_usprg0 (s : State) : (s.advance).usprg0 = s.usprg0 := rfl
@[simp] theorem advance_dbcr0Idm (s : State) : (s.advance).dbcr0Idm = s.dbcr0Idm := rfl
@[simp] theorem advance_mem (s : State) : (s.advance).mem = s.mem := rfl
@[simp] theorem advance_stored (s : State) : (s.advance).stored = s.stored := rfl
@[simp] theorem advance_pic (s : State) : (s.advance).pic = s.pic := rfl
@[simp] theorem advance_pend (s : State) : (s.advance).pend = s.pend := rfl
@[simp] theorem advance_inputs (s : State) : (s.advance).inputs = s.inputs := rfl
@[simp] theorem advance_freeIx (s : State) : (s.advance).freeIx = s.freeIx := rfl

@[simp] theorem writeMsr_config (s : State) (v : Word) : (s.writeMsr v).config = s.config := rfl
@[simp] theorem writeMsr_gpr (s : State) (v : Word) : (s.writeMsr v).gpr = s.gpr := rfl
@[simp] theorem writeMsr_pc (s : State) (v : Word) : (s.writeMsr v).pc = s.pc := rfl
@[simp] theorem writeMsr_cr (s : State) (v : Word) : (s.writeMsr v).cr = s.cr := rfl
@[simp] theorem writeMsr_lr (s : State) (v : Word) : (s.writeMsr v).lr = s.lr := rfl
@[simp] theorem writeMsr_ctr (s : State) (v : Word) : (s.writeMsr v).ctr = s.ctr := rfl
@[simp] theorem writeMsr_xer (s : State) (v : Word) : (s.writeMsr v).xer = s.xer := rfl
@[simp] theorem writeMsr_msr (s : State) (v : Word) : (s.writeMsr v).msr = v &&& msrWritable := rfl
@[simp] theorem writeMsr_ivpr (s : State) (v : Word) : (s.writeMsr v).ivpr = s.ivpr := rfl
@[simp] theorem writeMsr_ivor (s : State) (v : Word) : (s.writeMsr v).ivor = s.ivor := rfl
@[simp] theorem writeMsr_srr0 (s : State) (v : Word) : (s.writeMsr v).srr0 = s.srr0 := rfl
@[simp] theorem writeMsr_srr1 (s : State) (v : Word) : (s.writeMsr v).srr1 = s.srr1 := rfl
@[simp] theorem writeMsr_csrr0 (s : State) (v : Word) : (s.writeMsr v).csrr0 = s.csrr0 := rfl
@[simp] theorem writeMsr_csrr1 (s : State) (v : Word) : (s.writeMsr v).csrr1 = s.csrr1 := rfl
@[simp] theorem writeMsr_mcsrr0 (s : State) (v : Word) : (s.writeMsr v).mcsrr0 = s.mcsrr0 := rfl
@[simp] theorem writeMsr_mcsrr1 (s : State) (v : Word) : (s.writeMsr v).mcsrr1 = s.mcsrr1 := rfl
@[simp] theorem writeMsr_esr (s : State) (v : Word) : (s.writeMsr v).esr = s.esr := rfl
@[simp] theorem writeMsr_dear (s : State) (v : Word) : (s.writeMsr v).dear = s.dear := rfl
@[simp] theorem writeMsr_mcsr (s : State) (v : Word) : (s.writeMsr v).mcsr = s.mcsr := rfl
@[simp] theorem writeMsr_sprg (s : State) (v : Word) : (s.writeMsr v).sprg = s.sprg := rfl
@[simp] theorem writeMsr_usprg0 (s : State) (v : Word) : (s.writeMsr v).usprg0 = s.usprg0 := rfl
@[simp] theorem writeMsr_dbcr0Idm (s : State) (v : Word) : (s.writeMsr v).dbcr0Idm = s.dbcr0Idm := rfl
@[simp] theorem writeMsr_mem (s : State) (v : Word) : (s.writeMsr v).mem = s.mem := rfl
@[simp] theorem writeMsr_stored (s : State) (v : Word) : (s.writeMsr v).stored = s.stored := rfl
@[simp] theorem writeMsr_pic (s : State) (v : Word) : (s.writeMsr v).pic = s.pic := rfl
@[simp] theorem writeMsr_pend (s : State) (v : Word) : (s.writeMsr v).pend = s.pend := rfl
@[simp] theorem writeMsr_inputs (s : State) (v : Word) : (s.writeMsr v).inputs = s.inputs := rfl
@[simp] theorem writeMsr_freeIx (s : State) (v : Word) : (s.writeMsr v).freeIx = s.freeIx := rfl

@[simp] theorem recordCr0_config (s : State) (v : Word) : (s.recordCr0 v).config = s.config := rfl
@[simp] theorem recordCr0_gpr (s : State) (v : Word) : (s.recordCr0 v).gpr = s.gpr := rfl
@[simp] theorem recordCr0_pc (s : State) (v : Word) : (s.recordCr0 v).pc = s.pc := rfl
@[simp] theorem recordCr0_cr (s : State) (v : Word) : (s.recordCr0 v).cr = cr0Of v s.so ++ s.cr.extractLsb' 0 28 := rfl
@[simp] theorem recordCr0_lr (s : State) (v : Word) : (s.recordCr0 v).lr = s.lr := rfl
@[simp] theorem recordCr0_ctr (s : State) (v : Word) : (s.recordCr0 v).ctr = s.ctr := rfl
@[simp] theorem recordCr0_xer (s : State) (v : Word) : (s.recordCr0 v).xer = s.xer := rfl
@[simp] theorem recordCr0_msr (s : State) (v : Word) : (s.recordCr0 v).msr = s.msr := rfl
@[simp] theorem recordCr0_ivpr (s : State) (v : Word) : (s.recordCr0 v).ivpr = s.ivpr := rfl
@[simp] theorem recordCr0_ivor (s : State) (v : Word) : (s.recordCr0 v).ivor = s.ivor := rfl
@[simp] theorem recordCr0_srr0 (s : State) (v : Word) : (s.recordCr0 v).srr0 = s.srr0 := rfl
@[simp] theorem recordCr0_srr1 (s : State) (v : Word) : (s.recordCr0 v).srr1 = s.srr1 := rfl
@[simp] theorem recordCr0_csrr0 (s : State) (v : Word) : (s.recordCr0 v).csrr0 = s.csrr0 := rfl
@[simp] theorem recordCr0_csrr1 (s : State) (v : Word) : (s.recordCr0 v).csrr1 = s.csrr1 := rfl
@[simp] theorem recordCr0_mcsrr0 (s : State) (v : Word) : (s.recordCr0 v).mcsrr0 = s.mcsrr0 := rfl
@[simp] theorem recordCr0_mcsrr1 (s : State) (v : Word) : (s.recordCr0 v).mcsrr1 = s.mcsrr1 := rfl
@[simp] theorem recordCr0_esr (s : State) (v : Word) : (s.recordCr0 v).esr = s.esr := rfl
@[simp] theorem recordCr0_dear (s : State) (v : Word) : (s.recordCr0 v).dear = s.dear := rfl
@[simp] theorem recordCr0_mcsr (s : State) (v : Word) : (s.recordCr0 v).mcsr = s.mcsr := rfl
@[simp] theorem recordCr0_sprg (s : State) (v : Word) : (s.recordCr0 v).sprg = s.sprg := rfl
@[simp] theorem recordCr0_usprg0 (s : State) (v : Word) : (s.recordCr0 v).usprg0 = s.usprg0 := rfl
@[simp] theorem recordCr0_dbcr0Idm (s : State) (v : Word) : (s.recordCr0 v).dbcr0Idm = s.dbcr0Idm := rfl
@[simp] theorem recordCr0_mem (s : State) (v : Word) : (s.recordCr0 v).mem = s.mem := rfl
@[simp] theorem recordCr0_stored (s : State) (v : Word) : (s.recordCr0 v).stored = s.stored := rfl
@[simp] theorem recordCr0_pic (s : State) (v : Word) : (s.recordCr0 v).pic = s.pic := rfl
@[simp] theorem recordCr0_pend (s : State) (v : Word) : (s.recordCr0 v).pend = s.pend := rfl
@[simp] theorem recordCr0_inputs (s : State) (v : Word) : (s.recordCr0 v).inputs = s.inputs := rfl
@[simp] theorem recordCr0_freeIx (s : State) (v : Word) : (s.recordCr0 v).freeIx = s.freeIx := rfl

@[simp] theorem link_config (s : State) (lk : Bool) : (s.link lk).config = s.config := by cases lk <;> rfl
@[simp] theorem link_gpr (s : State) (lk : Bool) : (s.link lk).gpr = s.gpr := by cases lk <;> rfl
@[simp] theorem link_pc (s : State) (lk : Bool) : (s.link lk).pc = s.pc := by cases lk <;> rfl
@[simp] theorem link_cr (s : State) (lk : Bool) : (s.link lk).cr = s.cr := by cases lk <;> rfl
@[simp] theorem link_lr (s : State) (lk : Bool) : (s.link lk).lr = if lk then s.nextPc else s.lr := by cases lk <;> rfl
@[simp] theorem link_ctr (s : State) (lk : Bool) : (s.link lk).ctr = s.ctr := by cases lk <;> rfl
@[simp] theorem link_xer (s : State) (lk : Bool) : (s.link lk).xer = s.xer := by cases lk <;> rfl
@[simp] theorem link_msr (s : State) (lk : Bool) : (s.link lk).msr = s.msr := by cases lk <;> rfl
@[simp] theorem link_ivpr (s : State) (lk : Bool) : (s.link lk).ivpr = s.ivpr := by cases lk <;> rfl
@[simp] theorem link_ivor (s : State) (lk : Bool) : (s.link lk).ivor = s.ivor := by cases lk <;> rfl
@[simp] theorem link_srr0 (s : State) (lk : Bool) : (s.link lk).srr0 = s.srr0 := by cases lk <;> rfl
@[simp] theorem link_srr1 (s : State) (lk : Bool) : (s.link lk).srr1 = s.srr1 := by cases lk <;> rfl
@[simp] theorem link_csrr0 (s : State) (lk : Bool) : (s.link lk).csrr0 = s.csrr0 := by cases lk <;> rfl
@[simp] theorem link_csrr1 (s : State) (lk : Bool) : (s.link lk).csrr1 = s.csrr1 := by cases lk <;> rfl
@[simp] theorem link_mcsrr0 (s : State) (lk : Bool) : (s.link lk).mcsrr0 = s.mcsrr0 := by cases lk <;> rfl
@[simp] theorem link_mcsrr1 (s : State) (lk : Bool) : (s.link lk).mcsrr1 = s.mcsrr1 := by cases lk <;> rfl
@[simp] theorem link_esr (s : State) (lk : Bool) : (s.link lk).esr = s.esr := by cases lk <;> rfl
@[simp] theorem link_dear (s : State) (lk : Bool) : (s.link lk).dear = s.dear := by cases lk <;> rfl
@[simp] theorem link_mcsr (s : State) (lk : Bool) : (s.link lk).mcsr = s.mcsr := by cases lk <;> rfl
@[simp] theorem link_sprg (s : State) (lk : Bool) : (s.link lk).sprg = s.sprg := by cases lk <;> rfl
@[simp] theorem link_usprg0 (s : State) (lk : Bool) : (s.link lk).usprg0 = s.usprg0 := by cases lk <;> rfl
@[simp] theorem link_dbcr0Idm (s : State) (lk : Bool) : (s.link lk).dbcr0Idm = s.dbcr0Idm := by cases lk <;> rfl
@[simp] theorem link_mem (s : State) (lk : Bool) : (s.link lk).mem = s.mem := by cases lk <;> rfl
@[simp] theorem link_stored (s : State) (lk : Bool) : (s.link lk).stored = s.stored := by cases lk <;> rfl
@[simp] theorem link_pic (s : State) (lk : Bool) : (s.link lk).pic = s.pic := by cases lk <;> rfl
@[simp] theorem link_pend (s : State) (lk : Bool) : (s.link lk).pend = s.pend := by cases lk <;> rfl
@[simp] theorem link_inputs (s : State) (lk : Bool) : (s.link lk).inputs = s.inputs := by cases lk <;> rfl
@[simp] theorem link_freeIx (s : State) (lk : Bool) : (s.link lk).freeIx = s.freeIx := by cases lk <;> rfl

/-! ### `setSpr`: what no special register shares -/

@[simp] theorem setSpr_config (s : State) (r : SprReg) (v : Word) : (s.setSpr r v).config = s.config := by cases r <;> rfl
@[simp] theorem setSpr_gpr (s : State) (r : SprReg) (v : Word) : (s.setSpr r v).gpr = s.gpr := by cases r <;> rfl
@[simp] theorem setSpr_pc (s : State) (r : SprReg) (v : Word) : (s.setSpr r v).pc = s.pc := by cases r <;> rfl
@[simp] theorem setSpr_cr (s : State) (r : SprReg) (v : Word) : (s.setSpr r v).cr = s.cr := by cases r <;> rfl
@[simp] theorem setSpr_msr (s : State) (r : SprReg) (v : Word) : (s.setSpr r v).msr = s.msr := by cases r <;> rfl
@[simp] theorem setSpr_mcsr (s : State) (r : SprReg) (v : Word) : (s.setSpr r v).mcsr = s.mcsr := by cases r <;> rfl
@[simp] theorem setSpr_dbcr0Idm (s : State) (r : SprReg) (v : Word) : (s.setSpr r v).dbcr0Idm = s.dbcr0Idm := by cases r <;> rfl
@[simp] theorem setSpr_mem (s : State) (r : SprReg) (v : Word) : (s.setSpr r v).mem = s.mem := by cases r <;> rfl
@[simp] theorem setSpr_stored (s : State) (r : SprReg) (v : Word) : (s.setSpr r v).stored = s.stored := by cases r <;> rfl
@[simp] theorem setSpr_pic (s : State) (r : SprReg) (v : Word) : (s.setSpr r v).pic = s.pic := by cases r <;> rfl
@[simp] theorem setSpr_pend (s : State) (r : SprReg) (v : Word) : (s.setSpr r v).pend = s.pend := by cases r <;> rfl
@[simp] theorem setSpr_inputs (s : State) (r : SprReg) (v : Word) : (s.setSpr r v).inputs = s.inputs := by cases r <;> rfl
@[simp] theorem setSpr_freeIx (s : State) (r : SprReg) (v : Word) : (s.setSpr r v).freeIx = s.freeIx := by cases r <;> rfl

/-! ### Taking an interrupt and returning -/

@[simp] theorem enterNoncritical_config (s : State) (t : IntType) (ret : Word) (e : Option Word) : (s.enterNoncritical t ret e).config = s.config := rfl
@[simp] theorem enterNoncritical_gpr (s : State) (t : IntType) (ret : Word) (e : Option Word) : (s.enterNoncritical t ret e).gpr = s.gpr := rfl
@[simp] theorem enterNoncritical_pc (s : State) (t : IntType) (ret : Word) (e : Option Word) : (s.enterNoncritical t ret e).pc = s.vector t := rfl
@[simp] theorem enterNoncritical_cr (s : State) (t : IntType) (ret : Word) (e : Option Word) : (s.enterNoncritical t ret e).cr = s.cr := rfl
@[simp] theorem enterNoncritical_lr (s : State) (t : IntType) (ret : Word) (e : Option Word) : (s.enterNoncritical t ret e).lr = s.lr := rfl
@[simp] theorem enterNoncritical_ctr (s : State) (t : IntType) (ret : Word) (e : Option Word) : (s.enterNoncritical t ret e).ctr = s.ctr := rfl
@[simp] theorem enterNoncritical_xer (s : State) (t : IntType) (ret : Word) (e : Option Word) : (s.enterNoncritical t ret e).xer = s.xer := rfl
@[simp] theorem enterNoncritical_msr (s : State) (t : IntType) (ret : Word) (e : Option Word) : (s.enterNoncritical t ret e).msr = s.msr &&& msrKeptNoncritical := rfl
@[simp] theorem enterNoncritical_ivpr (s : State) (t : IntType) (ret : Word) (e : Option Word) : (s.enterNoncritical t ret e).ivpr = s.ivpr := rfl
@[simp] theorem enterNoncritical_ivor (s : State) (t : IntType) (ret : Word) (e : Option Word) : (s.enterNoncritical t ret e).ivor = s.ivor := rfl
@[simp] theorem enterNoncritical_srr0 (s : State) (t : IntType) (ret : Word) (e : Option Word) : (s.enterNoncritical t ret e).srr0 = ret := rfl
@[simp] theorem enterNoncritical_srr1 (s : State) (t : IntType) (ret : Word) (e : Option Word) : (s.enterNoncritical t ret e).srr1 = s.msr := rfl
@[simp] theorem enterNoncritical_csrr0 (s : State) (t : IntType) (ret : Word) (e : Option Word) : (s.enterNoncritical t ret e).csrr0 = s.csrr0 := rfl
@[simp] theorem enterNoncritical_csrr1 (s : State) (t : IntType) (ret : Word) (e : Option Word) : (s.enterNoncritical t ret e).csrr1 = s.csrr1 := rfl
@[simp] theorem enterNoncritical_mcsrr0 (s : State) (t : IntType) (ret : Word) (e : Option Word) : (s.enterNoncritical t ret e).mcsrr0 = s.mcsrr0 := rfl
@[simp] theorem enterNoncritical_mcsrr1 (s : State) (t : IntType) (ret : Word) (e : Option Word) : (s.enterNoncritical t ret e).mcsrr1 = s.mcsrr1 := rfl
@[simp] theorem enterNoncritical_esr (s : State) (t : IntType) (ret : Word) (e : Option Word) : (s.enterNoncritical t ret e).esr = e.getD s.esr := rfl
@[simp] theorem enterNoncritical_dear (s : State) (t : IntType) (ret : Word) (e : Option Word) : (s.enterNoncritical t ret e).dear = s.dear := rfl
@[simp] theorem enterNoncritical_mcsr (s : State) (t : IntType) (ret : Word) (e : Option Word) : (s.enterNoncritical t ret e).mcsr = s.mcsr := rfl
@[simp] theorem enterNoncritical_sprg (s : State) (t : IntType) (ret : Word) (e : Option Word) : (s.enterNoncritical t ret e).sprg = s.sprg := rfl
@[simp] theorem enterNoncritical_usprg0 (s : State) (t : IntType) (ret : Word) (e : Option Word) : (s.enterNoncritical t ret e).usprg0 = s.usprg0 := rfl
@[simp] theorem enterNoncritical_dbcr0Idm (s : State) (t : IntType) (ret : Word) (e : Option Word) : (s.enterNoncritical t ret e).dbcr0Idm = s.dbcr0Idm := rfl
@[simp] theorem enterNoncritical_mem (s : State) (t : IntType) (ret : Word) (e : Option Word) : (s.enterNoncritical t ret e).mem = s.mem := rfl
@[simp] theorem enterNoncritical_stored (s : State) (t : IntType) (ret : Word) (e : Option Word) : (s.enterNoncritical t ret e).stored = s.stored := rfl
@[simp] theorem enterNoncritical_pic (s : State) (t : IntType) (ret : Word) (e : Option Word) : (s.enterNoncritical t ret e).pic = s.pic := rfl
@[simp] theorem enterNoncritical_pend (s : State) (t : IntType) (ret : Word) (e : Option Word) : (s.enterNoncritical t ret e).pend = s.pend := rfl
@[simp] theorem enterNoncritical_inputs (s : State) (t : IntType) (ret : Word) (e : Option Word) : (s.enterNoncritical t ret e).inputs = s.inputs := rfl
@[simp] theorem enterNoncritical_freeIx (s : State) (t : IntType) (ret : Word) (e : Option Word) : (s.enterNoncritical t ret e).freeIx = s.freeIx := rfl

@[simp] theorem enterCritical_config (s : State) (t : IntType) (ret : Word) : (s.enterCritical t ret).config = s.config := rfl
@[simp] theorem enterCritical_gpr (s : State) (t : IntType) (ret : Word) : (s.enterCritical t ret).gpr = s.gpr := rfl
@[simp] theorem enterCritical_pc (s : State) (t : IntType) (ret : Word) : (s.enterCritical t ret).pc = s.vector t := rfl
@[simp] theorem enterCritical_cr (s : State) (t : IntType) (ret : Word) : (s.enterCritical t ret).cr = s.cr := rfl
@[simp] theorem enterCritical_lr (s : State) (t : IntType) (ret : Word) : (s.enterCritical t ret).lr = s.lr := rfl
@[simp] theorem enterCritical_ctr (s : State) (t : IntType) (ret : Word) : (s.enterCritical t ret).ctr = s.ctr := rfl
@[simp] theorem enterCritical_xer (s : State) (t : IntType) (ret : Word) : (s.enterCritical t ret).xer = s.xer := rfl
@[simp] theorem enterCritical_msr (s : State) (t : IntType) (ret : Word) : (s.enterCritical t ret).msr = s.msr &&& msrKeptCritical := rfl
@[simp] theorem enterCritical_ivpr (s : State) (t : IntType) (ret : Word) : (s.enterCritical t ret).ivpr = s.ivpr := rfl
@[simp] theorem enterCritical_ivor (s : State) (t : IntType) (ret : Word) : (s.enterCritical t ret).ivor = s.ivor := rfl
@[simp] theorem enterCritical_srr0 (s : State) (t : IntType) (ret : Word) : (s.enterCritical t ret).srr0 = s.srr0 := rfl
@[simp] theorem enterCritical_srr1 (s : State) (t : IntType) (ret : Word) : (s.enterCritical t ret).srr1 = s.srr1 := rfl
@[simp] theorem enterCritical_csrr0 (s : State) (t : IntType) (ret : Word) : (s.enterCritical t ret).csrr0 = ret := rfl
@[simp] theorem enterCritical_csrr1 (s : State) (t : IntType) (ret : Word) : (s.enterCritical t ret).csrr1 = s.msr := rfl
@[simp] theorem enterCritical_mcsrr0 (s : State) (t : IntType) (ret : Word) : (s.enterCritical t ret).mcsrr0 = s.mcsrr0 := rfl
@[simp] theorem enterCritical_mcsrr1 (s : State) (t : IntType) (ret : Word) : (s.enterCritical t ret).mcsrr1 = s.mcsrr1 := rfl
@[simp] theorem enterCritical_esr (s : State) (t : IntType) (ret : Word) : (s.enterCritical t ret).esr = s.esr := rfl
@[simp] theorem enterCritical_dear (s : State) (t : IntType) (ret : Word) : (s.enterCritical t ret).dear = s.dear := rfl
@[simp] theorem enterCritical_mcsr (s : State) (t : IntType) (ret : Word) : (s.enterCritical t ret).mcsr = s.mcsr := rfl
@[simp] theorem enterCritical_sprg (s : State) (t : IntType) (ret : Word) : (s.enterCritical t ret).sprg = s.sprg := rfl
@[simp] theorem enterCritical_usprg0 (s : State) (t : IntType) (ret : Word) : (s.enterCritical t ret).usprg0 = s.usprg0 := rfl
@[simp] theorem enterCritical_dbcr0Idm (s : State) (t : IntType) (ret : Word) : (s.enterCritical t ret).dbcr0Idm = s.dbcr0Idm := rfl
@[simp] theorem enterCritical_mem (s : State) (t : IntType) (ret : Word) : (s.enterCritical t ret).mem = s.mem := rfl
@[simp] theorem enterCritical_stored (s : State) (t : IntType) (ret : Word) : (s.enterCritical t ret).stored = s.stored := rfl
@[simp] theorem enterCritical_pic (s : State) (t : IntType) (ret : Word) : (s.enterCritical t ret).pic = s.pic := rfl
@[simp] theorem enterCritical_pend (s : State) (t : IntType) (ret : Word) : (s.enterCritical t ret).pend = s.pend := rfl
@[simp] theorem enterCritical_inputs (s : State) (t : IntType) (ret : Word) : (s.enterCritical t ret).inputs = s.inputs := rfl
@[simp] theorem enterCritical_freeIx (s : State) (t : IntType) (ret : Word) : (s.enterCritical t ret).freeIx = s.freeIx := rfl

@[simp] theorem enterMachineCheck_config (s : State) (t : IntType) (ret : Word) : (s.enterMachineCheck t ret).config = s.config := rfl
@[simp] theorem enterMachineCheck_gpr (s : State) (t : IntType) (ret : Word) : (s.enterMachineCheck t ret).gpr = s.gpr := rfl
@[simp] theorem enterMachineCheck_pc (s : State) (t : IntType) (ret : Word) : (s.enterMachineCheck t ret).pc = s.vector t := rfl
@[simp] theorem enterMachineCheck_cr (s : State) (t : IntType) (ret : Word) : (s.enterMachineCheck t ret).cr = s.cr := rfl
@[simp] theorem enterMachineCheck_lr (s : State) (t : IntType) (ret : Word) : (s.enterMachineCheck t ret).lr = s.lr := rfl
@[simp] theorem enterMachineCheck_ctr (s : State) (t : IntType) (ret : Word) : (s.enterMachineCheck t ret).ctr = s.ctr := rfl
@[simp] theorem enterMachineCheck_xer (s : State) (t : IntType) (ret : Word) : (s.enterMachineCheck t ret).xer = s.xer := rfl
@[simp] theorem enterMachineCheck_msr (s : State) (t : IntType) (ret : Word) : (s.enterMachineCheck t ret).msr = 0 := rfl
@[simp] theorem enterMachineCheck_ivpr (s : State) (t : IntType) (ret : Word) : (s.enterMachineCheck t ret).ivpr = s.ivpr := rfl
@[simp] theorem enterMachineCheck_ivor (s : State) (t : IntType) (ret : Word) : (s.enterMachineCheck t ret).ivor = s.ivor := rfl
@[simp] theorem enterMachineCheck_srr0 (s : State) (t : IntType) (ret : Word) : (s.enterMachineCheck t ret).srr0 = s.srr0 := rfl
@[simp] theorem enterMachineCheck_srr1 (s : State) (t : IntType) (ret : Word) : (s.enterMachineCheck t ret).srr1 = s.srr1 := rfl
@[simp] theorem enterMachineCheck_csrr0 (s : State) (t : IntType) (ret : Word) : (s.enterMachineCheck t ret).csrr0 = s.csrr0 := rfl
@[simp] theorem enterMachineCheck_csrr1 (s : State) (t : IntType) (ret : Word) : (s.enterMachineCheck t ret).csrr1 = s.csrr1 := rfl
@[simp] theorem enterMachineCheck_mcsrr0 (s : State) (t : IntType) (ret : Word) : (s.enterMachineCheck t ret).mcsrr0 = s.mcheckAddress ret := rfl
@[simp] theorem enterMachineCheck_mcsrr1 (s : State) (t : IntType) (ret : Word) : (s.enterMachineCheck t ret).mcsrr1 = s.msr := rfl
@[simp] theorem enterMachineCheck_esr (s : State) (t : IntType) (ret : Word) : (s.enterMachineCheck t ret).esr = s.esr := rfl
@[simp] theorem enterMachineCheck_dear (s : State) (t : IntType) (ret : Word) : (s.enterMachineCheck t ret).dear = s.dear := rfl
@[simp] theorem enterMachineCheck_mcsr (s : State) (t : IntType) (ret : Word) : (s.enterMachineCheck t ret).mcsr = Config.freeMcsr s.freeIx := rfl
@[simp] theorem enterMachineCheck_sprg (s : State) (t : IntType) (ret : Word) : (s.enterMachineCheck t ret).sprg = s.sprg := rfl
@[simp] theorem enterMachineCheck_usprg0 (s : State) (t : IntType) (ret : Word) : (s.enterMachineCheck t ret).usprg0 = s.usprg0 := rfl
@[simp] theorem enterMachineCheck_dbcr0Idm (s : State) (t : IntType) (ret : Word) : (s.enterMachineCheck t ret).dbcr0Idm = s.dbcr0Idm := rfl
@[simp] theorem enterMachineCheck_mem (s : State) (t : IntType) (ret : Word) : (s.enterMachineCheck t ret).mem = s.mem := rfl
@[simp] theorem enterMachineCheck_stored (s : State) (t : IntType) (ret : Word) : (s.enterMachineCheck t ret).stored = s.stored := rfl
@[simp] theorem enterMachineCheck_pic (s : State) (t : IntType) (ret : Word) : (s.enterMachineCheck t ret).pic = s.pic := rfl
@[simp] theorem enterMachineCheck_pend (s : State) (t : IntType) (ret : Word) : (s.enterMachineCheck t ret).pend = s.pend := rfl
@[simp] theorem enterMachineCheck_inputs (s : State) (t : IntType) (ret : Word) : (s.enterMachineCheck t ret).inputs = s.inputs := rfl
@[simp] theorem enterMachineCheck_freeIx (s : State) (t : IntType) (ret : Word) : (s.enterMachineCheck t ret).freeIx = s.freeIx + 1 := rfl

@[simp] theorem takeInterrupt_config (s : State) (t : IntType) (ret : Word) (e : Option Word) : (s.takeInterrupt t ret e).config = s.config := by cases t <;> rfl
@[simp] theorem takeInterrupt_gpr (s : State) (t : IntType) (ret : Word) (e : Option Word) : (s.takeInterrupt t ret e).gpr = s.gpr := by cases t <;> rfl
@[simp] theorem takeInterrupt_pc (s : State) (t : IntType) (ret : Word) (e : Option Word) : (s.takeInterrupt t ret e).pc = s.vector t := by cases t <;> rfl
@[simp] theorem takeInterrupt_cr (s : State) (t : IntType) (ret : Word) (e : Option Word) : (s.takeInterrupt t ret e).cr = s.cr := by cases t <;> rfl
@[simp] theorem takeInterrupt_lr (s : State) (t : IntType) (ret : Word) (e : Option Word) : (s.takeInterrupt t ret e).lr = s.lr := by cases t <;> rfl
@[simp] theorem takeInterrupt_ctr (s : State) (t : IntType) (ret : Word) (e : Option Word) : (s.takeInterrupt t ret e).ctr = s.ctr := by cases t <;> rfl
@[simp] theorem takeInterrupt_xer (s : State) (t : IntType) (ret : Word) (e : Option Word) : (s.takeInterrupt t ret e).xer = s.xer := by cases t <;> rfl
@[simp] theorem takeInterrupt_ivpr (s : State) (t : IntType) (ret : Word) (e : Option Word) : (s.takeInterrupt t ret e).ivpr = s.ivpr := by cases t <;> rfl
@[simp] theorem takeInterrupt_ivor (s : State) (t : IntType) (ret : Word) (e : Option Word) : (s.takeInterrupt t ret e).ivor = s.ivor := by cases t <;> rfl
@[simp] theorem takeInterrupt_dear (s : State) (t : IntType) (ret : Word) (e : Option Word) : (s.takeInterrupt t ret e).dear = s.dear := by cases t <;> rfl
@[simp] theorem takeInterrupt_sprg (s : State) (t : IntType) (ret : Word) (e : Option Word) : (s.takeInterrupt t ret e).sprg = s.sprg := by cases t <;> rfl
@[simp] theorem takeInterrupt_usprg0 (s : State) (t : IntType) (ret : Word) (e : Option Word) : (s.takeInterrupt t ret e).usprg0 = s.usprg0 := by cases t <;> rfl
@[simp] theorem takeInterrupt_dbcr0Idm (s : State) (t : IntType) (ret : Word) (e : Option Word) : (s.takeInterrupt t ret e).dbcr0Idm = s.dbcr0Idm := by cases t <;> rfl
@[simp] theorem takeInterrupt_mem (s : State) (t : IntType) (ret : Word) (e : Option Word) : (s.takeInterrupt t ret e).mem = s.mem := by cases t <;> rfl
@[simp] theorem takeInterrupt_stored (s : State) (t : IntType) (ret : Word) (e : Option Word) : (s.takeInterrupt t ret e).stored = s.stored := by cases t <;> rfl
@[simp] theorem takeInterrupt_pic (s : State) (t : IntType) (ret : Word) (e : Option Word) : (s.takeInterrupt t ret e).pic = s.pic := by cases t <;> rfl
@[simp] theorem takeInterrupt_pend (s : State) (t : IntType) (ret : Word) (e : Option Word) : (s.takeInterrupt t ret e).pend = s.pend := by cases t <;> rfl
@[simp] theorem takeInterrupt_inputs (s : State) (t : IntType) (ret : Word) (e : Option Word) : (s.takeInterrupt t ret e).inputs = s.inputs := by cases t <;> rfl

@[simp] theorem returnFromInterrupt_config (s : State) : (s.returnFromInterrupt).config = s.config := rfl
@[simp] theorem returnFromInterrupt_gpr (s : State) : (s.returnFromInterrupt).gpr = s.gpr := rfl
@[simp] theorem returnFromInterrupt_pc (s : State) : (s.returnFromInterrupt).pc = alignPc s.srr0 := rfl
@[simp] theorem returnFromInterrupt_cr (s : State) : (s.returnFromInterrupt).cr = s.cr := rfl
@[simp] theorem returnFromInterrupt_lr (s : State) : (s.returnFromInterrupt).lr = s.lr := rfl
@[simp] theorem returnFromInterrupt_ctr (s : State) : (s.returnFromInterrupt).ctr = s.ctr := rfl
@[simp] theorem returnFromInterrupt_xer (s : State) : (s.returnFromInterrupt).xer = s.xer := rfl
@[simp] theorem returnFromInterrupt_msr (s : State) : (s.returnFromInterrupt).msr = s.srr1 &&& msrWritable := rfl
@[simp] theorem returnFromInterrupt_ivpr (s : State) : (s.returnFromInterrupt).ivpr = s.ivpr := rfl
@[simp] theorem returnFromInterrupt_ivor (s : State) : (s.returnFromInterrupt).ivor = s.ivor := rfl
@[simp] theorem returnFromInterrupt_srr0 (s : State) : (s.returnFromInterrupt).srr0 = s.srr0 := rfl
@[simp] theorem returnFromInterrupt_srr1 (s : State) : (s.returnFromInterrupt).srr1 = s.srr1 := rfl
@[simp] theorem returnFromInterrupt_csrr0 (s : State) : (s.returnFromInterrupt).csrr0 = s.csrr0 := rfl
@[simp] theorem returnFromInterrupt_csrr1 (s : State) : (s.returnFromInterrupt).csrr1 = s.csrr1 := rfl
@[simp] theorem returnFromInterrupt_mcsrr0 (s : State) : (s.returnFromInterrupt).mcsrr0 = s.mcsrr0 := rfl
@[simp] theorem returnFromInterrupt_mcsrr1 (s : State) : (s.returnFromInterrupt).mcsrr1 = s.mcsrr1 := rfl
@[simp] theorem returnFromInterrupt_esr (s : State) : (s.returnFromInterrupt).esr = s.esr := rfl
@[simp] theorem returnFromInterrupt_dear (s : State) : (s.returnFromInterrupt).dear = s.dear := rfl
@[simp] theorem returnFromInterrupt_mcsr (s : State) : (s.returnFromInterrupt).mcsr = s.mcsr := rfl
@[simp] theorem returnFromInterrupt_sprg (s : State) : (s.returnFromInterrupt).sprg = s.sprg := rfl
@[simp] theorem returnFromInterrupt_usprg0 (s : State) : (s.returnFromInterrupt).usprg0 = s.usprg0 := rfl
@[simp] theorem returnFromInterrupt_dbcr0Idm (s : State) : (s.returnFromInterrupt).dbcr0Idm = s.dbcr0Idm := rfl
@[simp] theorem returnFromInterrupt_mem (s : State) : (s.returnFromInterrupt).mem = s.mem := rfl
@[simp] theorem returnFromInterrupt_stored (s : State) : (s.returnFromInterrupt).stored = s.stored := rfl
@[simp] theorem returnFromInterrupt_pic (s : State) : (s.returnFromInterrupt).pic = s.pic := rfl
@[simp] theorem returnFromInterrupt_pend (s : State) : (s.returnFromInterrupt).pend = s.pend := rfl
@[simp] theorem returnFromInterrupt_inputs (s : State) : (s.returnFromInterrupt).inputs = s.inputs := rfl
@[simp] theorem returnFromInterrupt_freeIx (s : State) : (s.returnFromInterrupt).freeIx = s.freeIx := rfl

/-! ### Memory -/

@[simp] theorem storeMem_config (s : State) (a v : Word) : (s.storeMem a v).config = s.config := rfl
@[simp] theorem storeMem_gpr (s : State) (a v : Word) : (s.storeMem a v).gpr = s.gpr := rfl
@[simp] theorem storeMem_pc (s : State) (a v : Word) : (s.storeMem a v).pc = s.pc := rfl
@[simp] theorem storeMem_cr (s : State) (a v : Word) : (s.storeMem a v).cr = s.cr := rfl
@[simp] theorem storeMem_lr (s : State) (a v : Word) : (s.storeMem a v).lr = s.lr := rfl
@[simp] theorem storeMem_ctr (s : State) (a v : Word) : (s.storeMem a v).ctr = s.ctr := rfl
@[simp] theorem storeMem_xer (s : State) (a v : Word) : (s.storeMem a v).xer = s.xer := rfl
@[simp] theorem storeMem_msr (s : State) (a v : Word) : (s.storeMem a v).msr = s.msr := rfl
@[simp] theorem storeMem_ivpr (s : State) (a v : Word) : (s.storeMem a v).ivpr = s.ivpr := rfl
@[simp] theorem storeMem_ivor (s : State) (a v : Word) : (s.storeMem a v).ivor = s.ivor := rfl
@[simp] theorem storeMem_srr0 (s : State) (a v : Word) : (s.storeMem a v).srr0 = s.srr0 := rfl
@[simp] theorem storeMem_srr1 (s : State) (a v : Word) : (s.storeMem a v).srr1 = s.srr1 := rfl
@[simp] theorem storeMem_csrr0 (s : State) (a v : Word) : (s.storeMem a v).csrr0 = s.csrr0 := rfl
@[simp] theorem storeMem_csrr1 (s : State) (a v : Word) : (s.storeMem a v).csrr1 = s.csrr1 := rfl
@[simp] theorem storeMem_mcsrr0 (s : State) (a v : Word) : (s.storeMem a v).mcsrr0 = s.mcsrr0 := rfl
@[simp] theorem storeMem_mcsrr1 (s : State) (a v : Word) : (s.storeMem a v).mcsrr1 = s.mcsrr1 := rfl
@[simp] theorem storeMem_esr (s : State) (a v : Word) : (s.storeMem a v).esr = s.esr := rfl
@[simp] theorem storeMem_dear (s : State) (a v : Word) : (s.storeMem a v).dear = s.dear := rfl
@[simp] theorem storeMem_mcsr (s : State) (a v : Word) : (s.storeMem a v).mcsr = s.mcsr := rfl
@[simp] theorem storeMem_sprg (s : State) (a v : Word) : (s.storeMem a v).sprg = s.sprg := rfl
@[simp] theorem storeMem_usprg0 (s : State) (a v : Word) : (s.storeMem a v).usprg0 = s.usprg0 := rfl
@[simp] theorem storeMem_dbcr0Idm (s : State) (a v : Word) : (s.storeMem a v).dbcr0Idm = s.dbcr0Idm := rfl
@[simp] theorem storeMem_mem (s : State) (a v : Word) : (s.storeMem a v).mem = Memory.writeWord s.mem a v := rfl
@[simp] theorem storeMem_stored (s : State) (a v : Word) : (s.storeMem a v).stored = addWordAddrs s.stored a := rfl
@[simp] theorem storeMem_pic (s : State) (a v : Word) : (s.storeMem a v).pic = s.pic := rfl
@[simp] theorem storeMem_pend (s : State) (a v : Word) : (s.storeMem a v).pend = s.pend := rfl
@[simp] theorem storeMem_inputs (s : State) (a v : Word) : (s.storeMem a v).inputs = s.inputs := rfl
@[simp] theorem storeMem_freeIx (s : State) (a v : Word) : (s.storeMem a v).freeIx = s.freeIx := rfl

@[simp] theorem loadWord_config (s : State) (a w : Word) : (s.loadWord a w).config = s.config := rfl
@[simp] theorem loadWord_gpr (s : State) (a w : Word) : (s.loadWord a w).gpr = s.gpr := rfl
@[simp] theorem loadWord_pc (s : State) (a w : Word) : (s.loadWord a w).pc = s.pc := rfl
@[simp] theorem loadWord_cr (s : State) (a w : Word) : (s.loadWord a w).cr = s.cr := rfl
@[simp] theorem loadWord_lr (s : State) (a w : Word) : (s.loadWord a w).lr = s.lr := rfl
@[simp] theorem loadWord_ctr (s : State) (a w : Word) : (s.loadWord a w).ctr = s.ctr := rfl
@[simp] theorem loadWord_xer (s : State) (a w : Word) : (s.loadWord a w).xer = s.xer := rfl
@[simp] theorem loadWord_msr (s : State) (a w : Word) : (s.loadWord a w).msr = s.msr := rfl
@[simp] theorem loadWord_ivpr (s : State) (a w : Word) : (s.loadWord a w).ivpr = s.ivpr := rfl
@[simp] theorem loadWord_ivor (s : State) (a w : Word) : (s.loadWord a w).ivor = s.ivor := rfl
@[simp] theorem loadWord_srr0 (s : State) (a w : Word) : (s.loadWord a w).srr0 = s.srr0 := rfl
@[simp] theorem loadWord_srr1 (s : State) (a w : Word) : (s.loadWord a w).srr1 = s.srr1 := rfl
@[simp] theorem loadWord_csrr0 (s : State) (a w : Word) : (s.loadWord a w).csrr0 = s.csrr0 := rfl
@[simp] theorem loadWord_csrr1 (s : State) (a w : Word) : (s.loadWord a w).csrr1 = s.csrr1 := rfl
@[simp] theorem loadWord_mcsrr0 (s : State) (a w : Word) : (s.loadWord a w).mcsrr0 = s.mcsrr0 := rfl
@[simp] theorem loadWord_mcsrr1 (s : State) (a w : Word) : (s.loadWord a w).mcsrr1 = s.mcsrr1 := rfl
@[simp] theorem loadWord_esr (s : State) (a w : Word) : (s.loadWord a w).esr = s.esr := rfl
@[simp] theorem loadWord_dear (s : State) (a w : Word) : (s.loadWord a w).dear = s.dear := rfl
@[simp] theorem loadWord_mcsr (s : State) (a w : Word) : (s.loadWord a w).mcsr = s.mcsr := rfl
@[simp] theorem loadWord_sprg (s : State) (a w : Word) : (s.loadWord a w).sprg = s.sprg := rfl
@[simp] theorem loadWord_usprg0 (s : State) (a w : Word) : (s.loadWord a w).usprg0 = s.usprg0 := rfl
@[simp] theorem loadWord_dbcr0Idm (s : State) (a w : Word) : (s.loadWord a w).dbcr0Idm = s.dbcr0Idm := rfl
@[simp] theorem loadWord_mem (s : State) (a w : Word) : (s.loadWord a w).mem = Memory.writeWord s.mem a w := rfl
@[simp] theorem loadWord_stored (s : State) (a w : Word) : (s.loadWord a w).stored = s.stored.filter (fun x => !isWordByte a x) := rfl
@[simp] theorem loadWord_pic (s : State) (a w : Word) : (s.loadWord a w).pic = s.pic := rfl
@[simp] theorem loadWord_pend (s : State) (a w : Word) : (s.loadWord a w).pend = s.pend := rfl
@[simp] theorem loadWord_inputs (s : State) (a w : Word) : (s.loadWord a w).inputs = s.inputs := rfl
@[simp] theorem loadWord_freeIx (s : State) (a w : Word) : (s.loadWord a w).freeIx = s.freeIx := rfl

/-! ### Events: they touch only the PIC and the pending conditions -/

@[simp] theorem applyEvent_config (s : State) (e : EnvEvent) : (s.applyEvent e).config = s.config := by cases e <;> rfl
@[simp] theorem applyEvent_gpr (s : State) (e : EnvEvent) : (s.applyEvent e).gpr = s.gpr := by cases e <;> rfl
@[simp] theorem applyEvent_pc (s : State) (e : EnvEvent) : (s.applyEvent e).pc = s.pc := by cases e <;> rfl
@[simp] theorem applyEvent_cr (s : State) (e : EnvEvent) : (s.applyEvent e).cr = s.cr := by cases e <;> rfl
@[simp] theorem applyEvent_lr (s : State) (e : EnvEvent) : (s.applyEvent e).lr = s.lr := by cases e <;> rfl
@[simp] theorem applyEvent_ctr (s : State) (e : EnvEvent) : (s.applyEvent e).ctr = s.ctr := by cases e <;> rfl
@[simp] theorem applyEvent_xer (s : State) (e : EnvEvent) : (s.applyEvent e).xer = s.xer := by cases e <;> rfl
@[simp] theorem applyEvent_msr (s : State) (e : EnvEvent) : (s.applyEvent e).msr = s.msr := by cases e <;> rfl
@[simp] theorem applyEvent_ivpr (s : State) (e : EnvEvent) : (s.applyEvent e).ivpr = s.ivpr := by cases e <;> rfl
@[simp] theorem applyEvent_ivor (s : State) (e : EnvEvent) : (s.applyEvent e).ivor = s.ivor := by cases e <;> rfl
@[simp] theorem applyEvent_srr0 (s : State) (e : EnvEvent) : (s.applyEvent e).srr0 = s.srr0 := by cases e <;> rfl
@[simp] theorem applyEvent_srr1 (s : State) (e : EnvEvent) : (s.applyEvent e).srr1 = s.srr1 := by cases e <;> rfl
@[simp] theorem applyEvent_csrr0 (s : State) (e : EnvEvent) : (s.applyEvent e).csrr0 = s.csrr0 := by cases e <;> rfl
@[simp] theorem applyEvent_csrr1 (s : State) (e : EnvEvent) : (s.applyEvent e).csrr1 = s.csrr1 := by cases e <;> rfl
@[simp] theorem applyEvent_mcsrr0 (s : State) (e : EnvEvent) : (s.applyEvent e).mcsrr0 = s.mcsrr0 := by cases e <;> rfl
@[simp] theorem applyEvent_mcsrr1 (s : State) (e : EnvEvent) : (s.applyEvent e).mcsrr1 = s.mcsrr1 := by cases e <;> rfl
@[simp] theorem applyEvent_esr (s : State) (e : EnvEvent) : (s.applyEvent e).esr = s.esr := by cases e <;> rfl
@[simp] theorem applyEvent_dear (s : State) (e : EnvEvent) : (s.applyEvent e).dear = s.dear := by cases e <;> rfl
@[simp] theorem applyEvent_mcsr (s : State) (e : EnvEvent) : (s.applyEvent e).mcsr = s.mcsr := by cases e <;> rfl
@[simp] theorem applyEvent_sprg (s : State) (e : EnvEvent) : (s.applyEvent e).sprg = s.sprg := by cases e <;> rfl
@[simp] theorem applyEvent_usprg0 (s : State) (e : EnvEvent) : (s.applyEvent e).usprg0 = s.usprg0 := by cases e <;> rfl
@[simp] theorem applyEvent_dbcr0Idm (s : State) (e : EnvEvent) : (s.applyEvent e).dbcr0Idm = s.dbcr0Idm := by cases e <;> rfl
@[simp] theorem applyEvent_mem (s : State) (e : EnvEvent) : (s.applyEvent e).mem = s.mem := by cases e <;> rfl
@[simp] theorem applyEvent_stored (s : State) (e : EnvEvent) : (s.applyEvent e).stored = s.stored := by cases e <;> rfl
@[simp] theorem applyEvent_inputs (s : State) (e : EnvEvent) : (s.applyEvent e).inputs = s.inputs := by cases e <;> rfl
@[simp] theorem applyEvent_freeIx (s : State) (e : EnvEvent) : (s.applyEvent e).freeIx = s.freeIx := by cases e <;> rfl

@[simp] theorem applyEvents_config (s : State) (es : List EnvEvent) : (s.applyEvents es).config = s.config := by
  induction es generalizing s with
  | nil => rfl
  | cons e es ih => rw [State.applyEvents, ih, applyEvent_config]
@[simp] theorem applyEvents_gpr (s : State) (es : List EnvEvent) : (s.applyEvents es).gpr = s.gpr := by
  induction es generalizing s with
  | nil => rfl
  | cons e es ih => rw [State.applyEvents, ih, applyEvent_gpr]
@[simp] theorem applyEvents_pc (s : State) (es : List EnvEvent) : (s.applyEvents es).pc = s.pc := by
  induction es generalizing s with
  | nil => rfl
  | cons e es ih => rw [State.applyEvents, ih, applyEvent_pc]
@[simp] theorem applyEvents_cr (s : State) (es : List EnvEvent) : (s.applyEvents es).cr = s.cr := by
  induction es generalizing s with
  | nil => rfl
  | cons e es ih => rw [State.applyEvents, ih, applyEvent_cr]
@[simp] theorem applyEvents_lr (s : State) (es : List EnvEvent) : (s.applyEvents es).lr = s.lr := by
  induction es generalizing s with
  | nil => rfl
  | cons e es ih => rw [State.applyEvents, ih, applyEvent_lr]
@[simp] theorem applyEvents_ctr (s : State) (es : List EnvEvent) : (s.applyEvents es).ctr = s.ctr := by
  induction es generalizing s with
  | nil => rfl
  | cons e es ih => rw [State.applyEvents, ih, applyEvent_ctr]
@[simp] theorem applyEvents_xer (s : State) (es : List EnvEvent) : (s.applyEvents es).xer = s.xer := by
  induction es generalizing s with
  | nil => rfl
  | cons e es ih => rw [State.applyEvents, ih, applyEvent_xer]
@[simp] theorem applyEvents_msr (s : State) (es : List EnvEvent) : (s.applyEvents es).msr = s.msr := by
  induction es generalizing s with
  | nil => rfl
  | cons e es ih => rw [State.applyEvents, ih, applyEvent_msr]
@[simp] theorem applyEvents_ivpr (s : State) (es : List EnvEvent) : (s.applyEvents es).ivpr = s.ivpr := by
  induction es generalizing s with
  | nil => rfl
  | cons e es ih => rw [State.applyEvents, ih, applyEvent_ivpr]
@[simp] theorem applyEvents_ivor (s : State) (es : List EnvEvent) : (s.applyEvents es).ivor = s.ivor := by
  induction es generalizing s with
  | nil => rfl
  | cons e es ih => rw [State.applyEvents, ih, applyEvent_ivor]
@[simp] theorem applyEvents_srr0 (s : State) (es : List EnvEvent) : (s.applyEvents es).srr0 = s.srr0 := by
  induction es generalizing s with
  | nil => rfl
  | cons e es ih => rw [State.applyEvents, ih, applyEvent_srr0]
@[simp] theorem applyEvents_srr1 (s : State) (es : List EnvEvent) : (s.applyEvents es).srr1 = s.srr1 := by
  induction es generalizing s with
  | nil => rfl
  | cons e es ih => rw [State.applyEvents, ih, applyEvent_srr1]
@[simp] theorem applyEvents_csrr0 (s : State) (es : List EnvEvent) : (s.applyEvents es).csrr0 = s.csrr0 := by
  induction es generalizing s with
  | nil => rfl
  | cons e es ih => rw [State.applyEvents, ih, applyEvent_csrr0]
@[simp] theorem applyEvents_csrr1 (s : State) (es : List EnvEvent) : (s.applyEvents es).csrr1 = s.csrr1 := by
  induction es generalizing s with
  | nil => rfl
  | cons e es ih => rw [State.applyEvents, ih, applyEvent_csrr1]
@[simp] theorem applyEvents_mcsrr0 (s : State) (es : List EnvEvent) : (s.applyEvents es).mcsrr0 = s.mcsrr0 := by
  induction es generalizing s with
  | nil => rfl
  | cons e es ih => rw [State.applyEvents, ih, applyEvent_mcsrr0]
@[simp] theorem applyEvents_mcsrr1 (s : State) (es : List EnvEvent) : (s.applyEvents es).mcsrr1 = s.mcsrr1 := by
  induction es generalizing s with
  | nil => rfl
  | cons e es ih => rw [State.applyEvents, ih, applyEvent_mcsrr1]
@[simp] theorem applyEvents_esr (s : State) (es : List EnvEvent) : (s.applyEvents es).esr = s.esr := by
  induction es generalizing s with
  | nil => rfl
  | cons e es ih => rw [State.applyEvents, ih, applyEvent_esr]
@[simp] theorem applyEvents_dear (s : State) (es : List EnvEvent) : (s.applyEvents es).dear = s.dear := by
  induction es generalizing s with
  | nil => rfl
  | cons e es ih => rw [State.applyEvents, ih, applyEvent_dear]
@[simp] theorem applyEvents_mcsr (s : State) (es : List EnvEvent) : (s.applyEvents es).mcsr = s.mcsr := by
  induction es generalizing s with
  | nil => rfl
  | cons e es ih => rw [State.applyEvents, ih, applyEvent_mcsr]
@[simp] theorem applyEvents_sprg (s : State) (es : List EnvEvent) : (s.applyEvents es).sprg = s.sprg := by
  induction es generalizing s with
  | nil => rfl
  | cons e es ih => rw [State.applyEvents, ih, applyEvent_sprg]
@[simp] theorem applyEvents_usprg0 (s : State) (es : List EnvEvent) : (s.applyEvents es).usprg0 = s.usprg0 := by
  induction es generalizing s with
  | nil => rfl
  | cons e es ih => rw [State.applyEvents, ih, applyEvent_usprg0]
@[simp] theorem applyEvents_dbcr0Idm (s : State) (es : List EnvEvent) : (s.applyEvents es).dbcr0Idm = s.dbcr0Idm := by
  induction es generalizing s with
  | nil => rfl
  | cons e es ih => rw [State.applyEvents, ih, applyEvent_dbcr0Idm]
@[simp] theorem applyEvents_mem (s : State) (es : List EnvEvent) : (s.applyEvents es).mem = s.mem := by
  induction es generalizing s with
  | nil => rfl
  | cons e es ih => rw [State.applyEvents, ih, applyEvent_mem]
@[simp] theorem applyEvents_stored (s : State) (es : List EnvEvent) : (s.applyEvents es).stored = s.stored := by
  induction es generalizing s with
  | nil => rfl
  | cons e es ih => rw [State.applyEvents, ih, applyEvent_stored]
@[simp] theorem applyEvents_inputs (s : State) (es : List EnvEvent) : (s.applyEvents es).inputs = s.inputs := by
  induction es generalizing s with
  | nil => rfl
  | cons e es ih => rw [State.applyEvents, ih, applyEvent_inputs]
@[simp] theorem applyEvents_freeIx (s : State) (es : List EnvEvent) : (s.applyEvents es).freeIx = s.freeIx := by
  induction es generalizing s with
  | nil => rfl
  | cons e es ih => rw [State.applyEvents, ih, applyEvent_freeIx]

@[simp] theorem arrive_config (s : State) : s.arrive.config = s.config := by
  unfold State.arrive
  split <;> simp
@[simp] theorem arrive_gpr (s : State) : s.arrive.gpr = s.gpr := by
  unfold State.arrive
  split <;> simp
@[simp] theorem arrive_pc (s : State) : s.arrive.pc = s.pc := by
  unfold State.arrive
  split <;> simp
@[simp] theorem arrive_cr (s : State) : s.arrive.cr = s.cr := by
  unfold State.arrive
  split <;> simp
@[simp] theorem arrive_lr (s : State) : s.arrive.lr = s.lr := by
  unfold State.arrive
  split <;> simp
@[simp] theorem arrive_ctr (s : State) : s.arrive.ctr = s.ctr := by
  unfold State.arrive
  split <;> simp
@[simp] theorem arrive_xer (s : State) : s.arrive.xer = s.xer := by
  unfold State.arrive
  split <;> simp
@[simp] theorem arrive_msr (s : State) : s.arrive.msr = s.msr := by
  unfold State.arrive
  split <;> simp
@[simp] theorem arrive_ivpr (s : State) : s.arrive.ivpr = s.ivpr := by
  unfold State.arrive
  split <;> simp
@[simp] theorem arrive_ivor (s : State) : s.arrive.ivor = s.ivor := by
  unfold State.arrive
  split <;> simp
@[simp] theorem arrive_srr0 (s : State) : s.arrive.srr0 = s.srr0 := by
  unfold State.arrive
  split <;> simp
@[simp] theorem arrive_srr1 (s : State) : s.arrive.srr1 = s.srr1 := by
  unfold State.arrive
  split <;> simp
@[simp] theorem arrive_csrr0 (s : State) : s.arrive.csrr0 = s.csrr0 := by
  unfold State.arrive
  split <;> simp
@[simp] theorem arrive_csrr1 (s : State) : s.arrive.csrr1 = s.csrr1 := by
  unfold State.arrive
  split <;> simp
@[simp] theorem arrive_mcsrr0 (s : State) : s.arrive.mcsrr0 = s.mcsrr0 := by
  unfold State.arrive
  split <;> simp
@[simp] theorem arrive_mcsrr1 (s : State) : s.arrive.mcsrr1 = s.mcsrr1 := by
  unfold State.arrive
  split <;> simp
@[simp] theorem arrive_esr (s : State) : s.arrive.esr = s.esr := by
  unfold State.arrive
  split <;> simp
@[simp] theorem arrive_dear (s : State) : s.arrive.dear = s.dear := by
  unfold State.arrive
  split <;> simp
@[simp] theorem arrive_mcsr (s : State) : s.arrive.mcsr = s.mcsr := by
  unfold State.arrive
  split <;> simp
@[simp] theorem arrive_sprg (s : State) : s.arrive.sprg = s.sprg := by
  unfold State.arrive
  split <;> simp
@[simp] theorem arrive_usprg0 (s : State) : s.arrive.usprg0 = s.usprg0 := by
  unfold State.arrive
  split <;> simp
@[simp] theorem arrive_dbcr0Idm (s : State) : s.arrive.dbcr0Idm = s.dbcr0Idm := by
  unfold State.arrive
  split <;> simp
@[simp] theorem arrive_mem (s : State) : s.arrive.mem = s.mem := by
  unfold State.arrive
  split <;> simp
@[simp] theorem arrive_stored (s : State) : s.arrive.stored = s.stored := by
  unfold State.arrive
  split <;> simp
@[simp] theorem arrive_inputs (s : State) : s.arrive.inputs = s.inputs.tail := by
  unfold State.arrive
  split <;> simp_all
@[simp] theorem arrive_freeIx (s : State) : s.arrive.freeIx = s.freeIx := by
  unfold State.arrive
  split <;> simp

/-! ### Registers -/

@[simp] theorem reg_setReg_same (s : State) (r : Reg) (v : Word) : (s.setReg r v).reg r = v := by
  simp [State.reg, State.setReg]

theorem reg_setReg_ne (s : State) {r q : Reg} (v : Word) (h : q ≠ r) : (s.setReg r v).reg q = s.reg q := by
  have h' : r.val ≠ q.val := fun e => h (Fin.ext e.symm)
  simp [State.reg, State.setReg, h']

theorem reg_setReg (s : State) (r q : Reg) (v : Word) :
    (s.setReg r v).reg q = if q = r then v else s.reg q := by
  split
  · subst q; simp
  · exact reg_setReg_ne s v ‹_›

/-- Registers are what `gpr` holds: an update that leaves `gpr` leaves every register. -/
theorem reg_congr {s t : State} (h : t.gpr = s.gpr) (r : Reg) : t.reg r = s.reg r := by
  simp [State.reg, h]

@[simp] theorem advance_reg (s : State) (r : Reg) : s.advance.reg r = s.reg r := rfl

@[simp] theorem storeMem_reg (s : State) (a v : Word) (r : Reg) : (s.storeMem a v).reg r = s.reg r := rfl

@[simp] theorem recordCr0_reg (s : State) (v : Word) (r : Reg) : (s.recordCr0 v).reg r = s.reg r := rfl

@[simp] theorem takeInterrupt_reg (s : State) (t : IntType) (ret : Word) (e : Option Word) (r : Reg) :
    (s.takeInterrupt t ret e).reg r = s.reg r := reg_congr (takeInterrupt_gpr s t ret e) r

@[simp] theorem setSpr_reg (s : State) (q : SprReg) (v : Word) (r : Reg) : (s.setSpr q v).reg r = s.reg r :=
  reg_congr (setSpr_gpr s q v) r

/-! ### Special registers -/

theorem ivorIndex_injective {t u : IntType} (h : ivorIndex t = ivorIndex u) : t = u := by
  revert h; cases t <;> cases u <;> decide

theorem spr_setSpr (s : State) (r q : SprReg) (v : Word) :
    (s.setSpr r v).spr q = if q = r then v else s.spr q := by
  split
  · subst q
    cases r <;> simp [State.setSpr, State.spr, State.ivorOf]
  · rename_i h
    cases r <;> cases q <;> first
      | rfl
      | exact absurd rfl h
      | (rename_i t u
         have hne : ivorIndex t ≠ ivorIndex u := fun e => h (by rw [ivorIndex_injective e])
         have hv : (ivorIndex t).val ≠ (ivorIndex u).val := fun e => hne (Fin.ext e)
         simp [State.setSpr, State.spr, State.ivorOf, hv])
      | (rename_i m n
         have hne : m ≠ n := fun e => h (by rw [e])
         have hv : m.val ≠ n.val := fun e => hne (Fin.ext e)
         simp [State.setSpr, State.spr, hv])

@[simp] theorem spr_setSpr_same (s : State) (r : SprReg) (v : Word) : (s.setSpr r v).spr r = v := by
  rw [spr_setSpr, if_pos rfl]

@[simp] theorem advance_spr (s : State) (r : SprReg) : s.advance.spr r = s.spr r := by cases r <;> rfl

@[simp] theorem setReg_spr (s : State) (q : Reg) (v : Word) (r : SprReg) : (s.setReg q v).spr r = s.spr r := by
  cases r <;> rfl

theorem ivorOf_congr {s t : State} (h : t.ivor = s.ivor) (u : IntType) : t.ivorOf u = s.ivorOf u := by
  simp [State.ivorOf, h]

theorem vector_congr {s t : State} (hp : t.ivpr = s.ivpr) (hi : t.ivor = s.ivor) (u : IntType) :
    t.vector u = s.vector u := by
  simp [State.vector, hp, ivorOf_congr hi]

end Sys2Proof.Machine
end

