-- ==== Sys2Proof/Laws/Exec.lean ====
section
/-!
SUPPORT. What each shared operation and each meaning can do, said once: the interrupt entries by class, the store, and one
inversion lemma per instruction whose meaning has several outcomes.
-/

namespace Sys2Proof.Machine

/-! ### Rows of the SPR table -/

/-- A number's row stands in the table under that number. -/
theorem sprRow_some {n : BitVec 10} {r : SprRow} (h : sprRow n = some r) : r ∈ sprTable ∧ r.num = n.toNat :=
  ⟨List.mem_of_find?_eq_some h, by simpa using List.find?_some h⟩

/-- A number with a meaning has a row. -/
theorem sprModel_ne_refuse {n : BitVec 10} (h : sprModel n ≠ .refuse) :
    ∃ r ∈ sprTable, r.num = n.toNat ∧ r.model = sprModel n := by
  unfold sprModel at h ⊢
  split at h
  · rename_i r hr
    exact ⟨r, (sprRow_some hr).1, (sprRow_some hr).2, by simp⟩
  · exact absurd rfl h

/-- The privilege column is bit 4 of the number (R172). -/
theorem sprTable_privilege : ∀ r ∈ sprTable, (r.priv = .supervisor ↔ r.num.testBit 4 = true) := by decide

/-- The registers a number without bit 4 lets `mtspr` write are XER, LR and CTR. -/
theorem sprTable_user_writes : ∀ r ∈ sprTable, r.num.testBit 4 = false → r.model.writable = true →
    r.model = .rw .xer ∨ r.model = .rw .lr ∨ r.model = .rw .ctr := by decide

/-- A treatment writes IVPR and the IVORs only under their masks, and masks nothing else (R42, R43). -/
def respectsMasks : SprModel → Bool
  | .masked .ivpr m => m == ivprMask
  | .masked (.ivor _) m => m == ivorMask
  | .masked _ _ => false
  | .rw .ivpr => false
  | .rw (.ivor _) => false
  | _ => true

theorem sprTable_respectsMasks : ∀ r ∈ sprTable, respectsMasks r.model = true := by decide

theorem sprModel_respectsMasks (n : BitVec 10) : respectsMasks (sprModel n) = true := by
  by_cases h : sprModel n = .refuse
  · rw [h]; rfl
  · obtain ⟨r, hr, _, hm⟩ := sprModel_ne_refuse h
    rw [← hm]; exact sprTable_respectsMasks r hr

theorem user_sprModel {n : BitVec 10} (hp : sprPrivileged n = false) (hw : (sprModel n).writable = true) :
    sprModel n = .rw .xer ∨ sprModel n = .rw .lr ∨ sprModel n = .rw .ctr := by
  obtain ⟨r, hr, hn, hm⟩ := sprModel_ne_refuse (n := n) (by intro e; rw [e] at hw; cases hw)
  rw [← hm] at hw ⊢
  refine sprTable_user_writes r hr ?_ hw
  rw [hn]; exact hp

/-- A number `mtspr` or `mfspr` treats this way has a row that says so. -/
theorem sprModel_row {n : BitVec 10} {m : SprModel} (h : sprModel n = m) (hm : m ≠ .refuse) :
    ∃ r ∈ sprTable, r.num = n.toNat ∧ r.model = m := by
  obtain ⟨r, hr, hn, e⟩ := sprModel_ne_refuse (n := n) (by rw [h]; exact hm)
  exact ⟨r, hr, hn, e.trans h⟩

/-- The rows that name LR, CTR, XER and DEAR (R36). -/
theorem sprTable_user_numbers : ∀ r ∈ sprTable,
    (r.model = .rw .lr → r.num = 8) ∧ (r.model = .rw .ctr → r.num = 9) ∧ (r.model = .rw .xer → r.num = 1) ∧
    (r.model = .rw .dear → r.num = 61) ∧
    ∀ m, r.model ≠ .masked .lr m ∧ r.model ≠ .masked .ctr m ∧ r.model ≠ .masked .xer m ∧
      r.model ≠ .masked .dear m := by
  simp [sprTable, sprRowsLow, sprRowsGeneral, sprRowsIvor, sprRowsHigh]

/-! ### Interrupt entry by class -/

theorem takeInterrupt_noncritical {t : IntType} (h : intClass t = .noncritical) (s : State) (ret : Word)
    (e : Option Word) : s.takeInterrupt t ret e = s.enterNoncritical t ret e := by
  simp only [State.takeInterrupt, h]

theorem takeInterrupt_critical {t : IntType} (h : intClass t = .critical) (s : State) (ret : Word)
    (e : Option Word) : s.takeInterrupt t ret e = s.enterCritical t ret := by
  simp only [State.takeInterrupt, h]

theorem takeInterrupt_machineCheck {t : IntType} (h : intClass t = .machineCheck) (s : State) (ret : Word)
    (e : Option Word) : s.takeInterrupt t ret e = s.enterMachineCheck t ret := by
  simp only [State.takeInterrupt, h]

/-- Every entry clears the MSR but for a part of CE, ME, DE: the new MSR is the old one under a mask inside them. -/
theorem takeInterrupt_msr (s : State) (t : IntType) (ret : Word) (e : Option Word) :
    ∃ m, (m = msrKeptNoncritical ∨ m = msrKeptCritical ∨ m = 0) ∧ (s.takeInterrupt t ret e).msr = s.msr &&& m := by
  cases h : intClass t
  · exact ⟨_, .inl rfl, by rw [takeInterrupt_noncritical h]; rfl⟩
  · exact ⟨_, .inr (.inl rfl), by rw [takeInterrupt_critical h]; rfl⟩
  · exact ⟨_, .inr (.inr rfl), by rw [takeInterrupt_machineCheck h]; simp⟩

/-- Every entry leaves supervisor mode on (R200, R217, R235). -/
@[simp] theorem takeInterrupt_pr (s : State) (t : IntType) (ret : Word) (e : Option Word) :
    (s.takeInterrupt t ret e).pr = false := by
  obtain ⟨m, hm, h⟩ := takeInterrupt_msr s t ret e
  simp only [State.pr, h, BitVec.getLsbD_and]
  rcases hm with rfl | rfl | rfl <;> simp [msrKeptNoncritical, msrKeptCritical]

/-- Every entry saves the MSR in one of the three pairs. -/
theorem takeInterrupt_saves (s : State) (t : IntType) (ret : Word) (e : Option Word) :
    (s.takeInterrupt t ret e).srr1 = s.msr ∨ (s.takeInterrupt t ret e).csrr1 = s.msr ∨
      (s.takeInterrupt t ret e).mcsrr1 = s.msr := by
  cases h : intClass t
  · left; rw [takeInterrupt_noncritical h]; rfl
  · right; left; rw [takeInterrupt_critical h]; rfl
  · right; right; rw [takeInterrupt_machineCheck h]; rfl

theorem privilegedProgram_eq (s : State) :
    s.privilegedProgram = s.enterNoncritical .program s.pc (some esrPrivileged) := rfl

theorem systemCall_eq (s : State) : s.systemCall = s.enterNoncritical .systemCall s.nextPc none := rfl

/-! ### Alignment of addresses -/

theorem extractLsb'_low_eq_zero_iff (a : Word) : a.extractLsb' 0 2 = 0 ↔ a.toNat % 4 = 0 := by
  rw [← BitVec.toNat_inj]
  simp

theorem isAligned_iff (a : Word) : isAligned a = true ↔ a.toNat % 4 = 0 := by
  rw [← extractLsb'_low_eq_zero_iff]; simp [isAligned]

/-- An append as a number. -/
theorem toNat_append_eq {n m : Nat} (x : BitVec n) (y : BitVec m) :
    (x ++ y).toNat = x.toNat * 2 ^ m + y.toNat := by
  rw [BitVec.toNat_append, ← Nat.shiftLeft_add_eq_or_of_lt y.isLt, Nat.shiftLeft_eq]

theorem toNat_alignPc (a : Word) : (alignPc a).toNat = a.toNat / 4 * 4 := by
  have := a.isLt
  have h : (alignPc a).toNat = (a.extractLsb' 2 30).toNat * 2 ^ 2 + (0#2).toNat := toNat_append_eq _ _
  rw [h, BitVec.extractLsb'_toNat, Nat.shiftRight_eq_div_pow]
  simp only [BitVec.toNat_ofNat]
  omega

theorem toNat_branchDisp_mod (li : BitVec 24) : (branchDisp li).toNat % 4 = 0 := by
  have h : (li ++ 0#2).toNat = li.toNat * 2 ^ 2 + (0#2).toNat := toNat_append_eq _ _
  have h2 := li.isLt
  simp only [branchDisp, BitVec.toNat_signExtend, BitVec.toNat_setWidth, h, BitVec.toNat_ofNat]
  split <;> omega

/-- The vector as a number: the high half of IVPR, then the IVOR's offset rounded down to 16 (R210). -/
theorem toNat_vector (s : State) (t : IntType) :
    (s.vector t).toNat = s.ivpr.toNat / 2 ^ 16 * 2 ^ 16 + (s.ivorOf t).toNat % 2 ^ 16 / 16 * 16 := by
  have h1 := s.ivpr.isLt
  have h2 := (s.ivorOf t).isLt
  have h : (s.vector t).toNat = (s.ivpr.extractLsb' 16 16 ++ (s.ivorOf t).extractLsb' 4 12).toNat * 2 ^ 4 +
      (0#4).toNat := toNat_append_eq _ _
  rw [h, toNat_append_eq, BitVec.extractLsb'_toNat, BitVec.extractLsb'_toNat, Nat.shiftRight_eq_div_pow,
    Nat.shiftRight_eq_div_pow]
  simp only [BitVec.toNat_ofNat]
  omega

theorem toNat_vector_mod (s : State) (t : IntType) : (s.vector t).toNat % 4 = 0 := by
  rw [toNat_vector]; omega

/-! ### The wait-enable bit -/

/-- The refused values are those with bit 18 set (R244). -/
theorem setsWe_eq (v : Word) : setsWe v = v.getLsbD 18 := by
  have hm : ∀ k : Fin 32, msrWeMask.getLsbD k.val = decide (k.val = 18) := by decide
  have h : v &&& msrWeMask = if v.getLsbD 18 then msrWeMask else 0 := by
    apply BitVec.eq_of_getLsbD_eq
    intro k hk
    rw [BitVec.getLsbD_and, hm ⟨k, hk⟩]
    by_cases e : k = 18
    · subst e; cases v.getLsbD 18 <;> simp [hm ⟨18, by omega⟩]
    · cases v.getLsbD 18 <;> simp [hm ⟨k, hk⟩, e]
  unfold setsWe
  rw [h]
  cases v.getLsbD 18 <;> simp [msrWeMask]

/-! ### The four bytes of an aligned word -/

theorem byteAddr_of_aligned {a : Word} (h : a.toNat % 4 = 0) {k : Nat} (hk : k < 4) :
    byteAddr a k = a.toNat + k := by
  rw [byteAddr_eq]; have := a.isLt; omega

theorem isWordByte_of_aligned {a : Word} (h : a.toNat % 4 = 0) (x : Nat) :
    isWordByte a x = true ↔ a.toNat ≤ x ∧ x < a.toNat + 4 := by
  rw [isWordByte_iff]
  constructor
  · rintro ⟨i, hi, rfl⟩
    rw [byteAddr_of_aligned h hi]; omega
  · rintro ⟨h1, h2⟩
    exact ⟨x - a.toNat, by omega, by rw [byteAddr_of_aligned h (by omega)]; omega⟩

/-! ### Stores -/

theorem storeTarget_memory {c : Config} {ea : Word} (h : isMemWord c ea = true) : storeTarget c ea = .memory := by
  have hp : inPicBlock c ea = false := by
    simp only [isMemWord, isMemByte, Bool.and_eq_true] at h
    simpa using h.1.1.1.2
  simp [storeTarget, hp, h]

/-- What a word store can do (R90, R249). -/
theorem storeWord_next {ea v : Word} {s t : State} (h : storeWord ea v s = .next t) :
    (isMemWord s.config ea = true ∧ t = s.storeMem ea v) ∨
      (∃ r, r ≠ .iack ∧ inPicBlock s.config ea = true ∧ picRegAt (picOffset s.config ea) = some r ∧
        t = { s with pic := s.pic.write r v }) := by
  unfold storeWord at h
  split at h
  · rename_i ht
    unfold storeTarget at ht
    split at ht
    · split at ht <;> cases ht
    · split at ht
      · exact .inl ⟨‹_›, by simpa using h.symm⟩
      · cases ht
  · rename_i r ht
    unfold storeTarget at ht
    split at ht
    · rename_i hp
      split at ht
      · cases ht
      · rename_i q hq hr
        obtain rfl : q = r := by simpa using ht
        exact .inr ⟨q, hq, hp, hr, by simpa using h.symm⟩
      · cases ht
    · split at ht <;> cases ht
  · cases h

/-! ### What each meaning can do -/

/-- A `stwu` that goes on stored a word, to memory or to a PIC register, and updated its base (R160). -/
theorem execStwu_next {rs ra : Reg} {d : BitVec 16} {s t : State} (h : execStwu rs ra d s = .next t) :
    ra ≠ 0 ∧ isAligned (s.effectiveAddress ra d) = true ∧
      ∃ u, storeWord (s.effectiveAddress ra d) (s.reg rs) s = .next u ∧
        t = (u.setReg ra (s.effectiveAddress ra d)).advance := by
  unfold execStwu at h
  split at h
  · cases h
  · rename_i hra
    simp only at h
    split at h
    · cases h
    · rename_i ha
      split at h
      · rename_i u hu
        exact ⟨hra, by simpa using ha, u, hu, by simpa using h.symm⟩
      · cases h
      · cases h

/-- A `mtspr` that goes on trapped, or wrote an admitted register under its mask (R170). -/
theorem execMtspr_next {n : BitVec 10} {rs : Reg} {s t : State} (h : execMtspr n rs s = .next t) :
    (sprPrivileged n = true ∧ s.pr = true ∧ t = s.privilegedProgram) ∨
      ((sprPrivileged n && s.pr) = false ∧
        ((∃ r, sprModel n = .rw r ∧ t = (s.setSpr r (s.reg rs)).advance) ∨
          ∃ r m, sprModel n = .masked r m ∧ t = (s.setSpr r (s.reg rs &&& m)).advance)) := by
  unfold execMtspr at h
  split at h
  · rename_i hp
    rw [Bool.and_eq_true] at hp
    exact .inl ⟨hp.1, hp.2, by simpa using h.symm⟩
  · rename_i hp
    refine .inr ⟨by simpa using hp, ?_⟩
    split at h
    · exact .inl ⟨_, ‹_›, by simpa using h.symm⟩
    · exact .inr ⟨_, _, ‹_›, by simpa using h.symm⟩
    all_goals cases h

/-- A `mfspr` that goes on trapped, or wrote one general register (R171). -/
theorem execMfspr_next {rt : Reg} {n : BitVec 10} {s t : State} (h : execMfspr rt n s = .next t) :
    (sprPrivileged n = true ∧ s.pr = true ∧ t = s.privilegedProgram) ∨
      ((sprPrivileged n && s.pr) = false ∧ ∃ v, t = (s.setReg rt v).advance) := by
  unfold execMfspr at h
  split at h
  · rename_i hp
    rw [Bool.and_eq_true] at hp
    exact .inl ⟨hp.1, hp.2, by simpa using h.symm⟩
  · rename_i hp
    refine .inr ⟨by simpa using hp, ?_⟩
    split at h
    all_goals first
      | exact ⟨_, by simpa using h.symm⟩
      | cases h

/-- A `mtmsr` that goes on trapped, or wrote the MSR (R173). -/
theorem execMtmsr_next {rs : Reg} {s t : State} (h : execMtmsr rs s = .next t) :
    (s.pr = true ∧ t = s.privilegedProgram) ∨
      (s.pr = false ∧ setsWe (s.reg rs) = false ∧ t = (s.writeMsr (s.reg rs)).advance) := by
  unfold execMtmsr at h
  split at h
  · exact .inl ⟨‹_›, by simpa using h.symm⟩
  · split at h
    · cases h
    · exact .inr ⟨by simp_all, by simp_all, by simpa using h.symm⟩

/-- A `mfmsr` that goes on trapped, or wrote one general register (R174). -/
theorem execMfmsr_next {rt : Reg} {s t : State} (h : execMfmsr rt s = .next t) :
    (s.pr = true ∧ t = s.privilegedProgram) ∨ (s.pr = false ∧ t = (s.setReg rt s.msr).advance) := by
  unfold execMfmsr at h
  split at h
  · exact .inl ⟨‹_›, by simpa using h.symm⟩
  · exact .inr ⟨by simp_all, by simpa using h.symm⟩

/-- An `rfi` that goes on trapped, or returned (R176). -/
theorem execRfi_next {s t : State} (h : execRfi s = .next t) :
    (s.pr = true ∧ t = s.privilegedProgram) ∨
      (s.pr = false ∧ setsWe s.srr1 = false ∧ t = s.returnFromInterrupt) := by
  unfold execRfi at h
  split at h
  · exact .inl ⟨‹_›, by simpa using h.symm⟩
  · split at h
    · cases h
    · exact .inr ⟨by simp_all, by simp_all, by simpa using h.symm⟩

end Sys2Proof.Machine
end

