-- ==== Sys2Proof/Laws/Operands.lean ====
section
/-!
SUPPORT. What the operand forms, the rotate and mask primitives and the cr0 record give, in terms of numbers and bits.
-/

namespace Sys2Proof.Machine

/-! ### Immediates -/

theorem toInt_signedImm (i : BitVec 16) : (signedImm i).toInt = i.toInt :=
  BitVec.toInt_signExtend_of_le (by omega)

theorem toNat_shiftedImm (i : BitVec 16) : (shiftedImm i).toNat = i.toNat * 2 ^ 16 := by
  have : (shiftedImm i).toNat = i.toNat * 2 ^ 16 + (0#16).toNat := toNat_append_eq _ _
  simpa using this

theorem getLsbD_unsignedImm (i : BitVec 16) (k : Nat) :
    (unsignedImm i).getLsbD k = (decide (k < 16) && i.getLsbD k) := by
  by_cases h : k < 16
  · have : k < 32 := by omega
    simp [unsignedImm, h, this]
  · simp [unsignedImm, h, BitVec.getLsbD_of_ge _ _ (Nat.not_lt.mp h)]

theorem toInt_branchDisp (li : BitVec 24) : (branchDisp li).toInt = li.toInt * 4 := by
  rw [branchDisp, BitVec.toInt_signExtend_of_le (by omega)]
  have h : (li ++ 0#2).toNat = li.toNat * 2 ^ 2 + (0#2).toNat := toNat_append_eq _ _
  have := li.isLt
  rw [BitVec.toInt_eq_toNat_cond, BitVec.toInt_eq_toNat_cond, h]
  simp only [BitVec.toNat_ofNat]
  split <;> split <;> omega

/-- Adding as integers and wrapping is adding as words. -/
theorem ofInt_toInt_add_toInt (a b : Word) : BitVec.ofInt 32 (a.toInt + b.toInt) = a + b := by
  apply BitVec.eq_of_toInt_eq
  rw [BitVec.toInt_add, BitVec.toInt_ofInt]

/-! ### Rotate and mask (R10) -/

theorem allOnes_bit (k : Nat) : (BitVec.allOnes 32).getLsbD k = decide (k < 32) := BitVec.getLsbD_allOnes

/-- IBM-32 position `p` of the mask. -/
theorem getLsbD_mask32 (mb me p : Fin 32) : (mask32 mb me).getLsbD (31 - p.val) =
    (if mb ≤ me then decide (mb ≤ p ∧ p ≤ me) else decide (p ≤ me ∨ mb ≤ p)) := by
  have hp := p.isLt
  have hm := mb.isLt
  have he := me.isLt
  have h1 : (BitVec.allOnes 32 >>> mb.val).getLsbD (31 - p.val) = decide (mb ≤ p) := by
    rw [BitVec.getLsbD_ushiftRight, allOnes_bit]
    exact decide_eq_decide.mpr (by rw [Fin.le_def]; omega)
  have h2 : (BitVec.allOnes 32 <<< (31 - me.val)).getLsbD (31 - p.val) = decide (p ≤ me) := by
    rw [BitVec.getLsbD_shiftLeft, allOnes_bit, ← decide_not, ← Bool.decide_and, ← Bool.decide_and]
    exact decide_eq_decide.mpr (by rw [Fin.le_def]; omega)
  unfold mask32
  split
  · rw [BitVec.getLsbD_and, h1, h2, Bool.decide_and]
  · rw [BitVec.getLsbD_or, h1, h2, Bool.decide_or, Bool.or_comm]

/-- IBM-32 position `p` of a left rotation is the source's position `p + n`. -/
theorem getLsbD_rotl32 (v : Word) (n p : Fin 32) :
    (rotl32 v n).getLsbD (31 - p.val) = v.getLsbD (31 - (p.val + n.val) % 32) := by
  have hp := p.isLt
  have hn := n.isLt
  unfold rotl32
  simp only [BitVec.getLsbD_or, BitVec.getLsbD_shiftLeft, BitVec.getLsbD_ushiftRight]
  by_cases h : p.val + n.val < 32
  · rw [Nat.mod_eq_of_lt h]
    have e1 : 31 - p.val < 32 := by omega
    have e2 : ¬ (31 - p.val < n.val) := by omega
    rw [BitVec.getLsbD_of_ge v (32 - n.val + (31 - p.val)) (by omega),
      show 31 - p.val - n.val = 31 - (p.val + n.val) by omega]
    simp [e1, e2]
  · have e2 : (31 - p.val < n.val) := by omega
    rw [show (p.val + n.val) % 32 = p.val + n.val - 32 by omega,
      show 32 - n.val + (31 - p.val) = 31 - (p.val + n.val - 32) by omega]
    simp [e2]

/-! ### The cr0 record (R144) -/

theorem getLsbD_31_iff (v : Word) : v.getLsbD 31 = true ↔ v.toInt < 0 := by
  have := v.isLt
  rw [← show v.msb = v.getLsbD 31 from BitVec.msb_eq_getLsbD_last v, BitVec.toInt_eq_msb_cond]
  split
  · simp_all
  · simp_all

theorem recordCr0_bits (s : State) (v : Word) :
    ((s.recordCr0 v).cr.getLsbD 31 = true ↔ v.toInt < 0) ∧
    ((s.recordCr0 v).cr.getLsbD 30 = true ↔ v.toInt > 0) ∧
    ((s.recordCr0 v).cr.getLsbD 29 = true ↔ v = 0) ∧
    (s.recordCr0 v).cr.getLsbD 28 = s.xer.getLsbD 31 ∧
    ∀ k < 28, (s.recordCr0 v).cr.getLsbD k = s.cr.getLsbD k := by
  have hcr : (s.recordCr0 v).cr = cr0Of v s.so ++ s.cr.extractLsb' 0 28 := rfl
  have hz : v = 0 ↔ v.toInt = 0 := by rw [← BitVec.toInt_inj]; rfl
  rw [hcr]
  refine ⟨?_, ?_, ?_, ?_, ?_⟩
  · rw [← getLsbD_31_iff]; simp only [BitVec.getLsbD_append, cr0Of]; simp
  · have h30 : (cr0Of v s.so ++ s.cr.extractLsb' 0 28 : Word).getLsbD 30 = (!v.getLsbD 31 && v != 0) := by
      simp only [BitVec.getLsbD_append, cr0Of]; simp
    rw [h30, Bool.and_eq_true, bne_iff_ne, Ne, hz, Bool.not_eq_true', ← Bool.not_eq_true, getLsbD_31_iff]
    omega
  · simp only [BitVec.getLsbD_append, cr0Of]; simp
  · simp only [BitVec.getLsbD_append, cr0Of]; simp [State.so]
  · intro k hk
    simp only [BitVec.getLsbD_append]; simp [hk]

end Sys2Proof.Machine
end

