-- ==== Sys2Proof/Laws/PerInstr.lean ====
section
/-!
SUPPORT. Statements made per instruction.  `EncodePattern`: the encoder's word carries the fixed bits of the instruction's
row of the opcode table.
-/

namespace Sys2Proof.Laws.EncodePattern

/-- The row of spec/opcode_table.json an instruction belongs to: match and mask. -/
def rowBits : Instr → Word × Word
  | .addi _ _ _ => (0x38000000, 0xFC000000)
  | .addis _ _ _ => (0x3C000000, 0xFC000000)
  | .sc => (0x44000002, 0xFFFFFFFF)
  | .b _ _ _ => (0x48000000, 0xFC000000)
  | .bclr _ _ _ => (0x4C000020, 0xFC00FFFE)
  | .rfi => (0x4C000064, 0xFFFFFFFF)
  | .rlwinm _ _ _ _ _ _ => (0x54000000, 0xFC000000)
  | .ori _ _ _ => (0x60000000, 0xFC000000)
  | .mfmsr _ => (0x7C0000A6, 0xFC1FFFFF)
  | .mtmsr _ => (0x7C000124, 0xFC1FFFFF)
  | .mfspr _ _ => (0x7C0002A6, 0xFC0007FF)
  | .mtspr _ _ => (0x7C0003A6, 0xFC0007FF)
  | .stwu _ _ _ => (0x94000000, 0xFC000000)

def Statement (i : Instr) : Prop := encode i &&& (rowBits i).2 = (rowBits i).1

/-- A 32-bit fact holds when it holds bit by bit. -/
theorem eq_of_bits {x y : Word} (h : ∀ k : Fin 32, x.getLsbD k.val = y.getLsbD k.val) : x = y := by
  apply BitVec.eq_of_getLsbD_eq
  intro i hi
  exact h ⟨i, hi⟩

theorem addi (rt ra : Reg) (si : BitVec 16) : Statement (.addi rt ra si) := by
  apply eq_of_bits
  intro k
  simp only [encode, encodeD, rowBits, BitVec.getLsbD_and, BitVec.getLsbD_append]
  fin_cases k <;> simp

theorem addis (rt ra : Reg) (si : BitVec 16) : Statement (.addis rt ra si) := by
  apply eq_of_bits
  intro k
  simp only [encode, encodeD, rowBits, BitVec.getLsbD_and, BitVec.getLsbD_append]
  fin_cases k <;> simp

theorem sc : Statement .sc := by
  unfold Statement
  decide

theorem b (li : BitVec 24) (aa lk : Bool) : Statement (.b li aa lk) := by
  apply eq_of_bits
  intro k
  simp only [encode, rowBits, BitVec.getLsbD_and, BitVec.getLsbD_append]
  fin_cases k <;> simp

theorem bclr (bo : BitVec 5) (bi : Fin 32) (lk : Bool) : Statement (.bclr bo bi lk) := by
  apply eq_of_bits
  intro k
  simp only [encode, rowBits, BitVec.getLsbD_and, BitVec.getLsbD_append]
  fin_cases k <;> simp

theorem rfi : Statement .rfi := by
  unfold Statement
  decide

theorem rlwinm (rs ra : Reg) (sh mb me : Fin 32) (rc : Bool) : Statement (.rlwinm rs ra sh mb me rc) := by
  apply eq_of_bits
  intro k
  simp only [encode, rowBits, BitVec.getLsbD_and, BitVec.getLsbD_append]
  fin_cases k <;> simp

theorem ori (rs ra : Reg) (ui : BitVec 16) : Statement (.ori rs ra ui) := by
  apply eq_of_bits
  intro k
  simp only [encode, encodeD, rowBits, BitVec.getLsbD_and, BitVec.getLsbD_append]
  fin_cases k <;> simp

theorem mfmsr (rt : Reg) : Statement (.mfmsr rt) := by
  apply eq_of_bits
  intro k
  simp only [encode, encodeX, rowBits, BitVec.getLsbD_and, BitVec.getLsbD_append]
  fin_cases k <;> simp

theorem mtmsr (rs : Reg) : Statement (.mtmsr rs) := by
  apply eq_of_bits
  intro k
  simp only [encode, encodeX, rowBits, BitVec.getLsbD_and, BitVec.getLsbD_append]
  fin_cases k <;> simp

theorem mfspr (rt : Reg) (sprn : BitVec 10) : Statement (.mfspr rt sprn) := by
  apply eq_of_bits
  intro k
  simp only [encode, encodeXFX, rowBits, BitVec.getLsbD_and, BitVec.getLsbD_append]
  fin_cases k <;> simp

theorem mtspr (sprn : BitVec 10) (rs : Reg) : Statement (.mtspr sprn rs) := by
  apply eq_of_bits
  intro k
  simp only [encode, encodeXFX, rowBits, BitVec.getLsbD_and, BitVec.getLsbD_append]
  fin_cases k <;> simp

theorem stwu (rs ra : Reg) (d : BitVec 16) : Statement (.stwu rs ra d) := by
  apply eq_of_bits
  intro k
  simp only [encode, encodeD, rowBits, BitVec.getLsbD_and, BitVec.getLsbD_append]
  fin_cases k <;> simp

end Sys2Proof.Laws.EncodePattern
end

