-- ==== Sys2Proof/Laws/Step.lean ====
section
/-!
SUPPORT. The PIC's operations, the boundary and the step, each inverted once: if it answers this, then one of these cases
holds.
-/

namespace Sys2Proof.Machine

/-! ### The PIC's operations -/

theorem ext_set_eq (p : Vector ExtSource 12) (n m : Fin 12) (x : ExtSource) :
    (p.set n x)[m] = if m = n then x else p[m] := by
  by_cases h : m = n
  · subst h; simp
  · have h' : n.val ≠ m.val := fun e => h (Fin.ext e.symm)
    simp [h, h']

theorem int_set_eq (p : Vector IntSource 64) (n m : Fin 64) (x : IntSource) :
    (p.set n x)[m] = if m = n then x else p[m] := by
  by_cases h : m = n
  · subst h; simp
  · have h' : n.val ≠ m.val := fun e => h (Fin.ext e.symm)
    simp [h, h']

/-- A write to a vector/priority register changes that source's, under its mask, and no other's (R249). -/
theorem write_vpr (p : Pic) (r : PicReg) (v : Word) (src : Source) :
    (p.write r v).vpr src =
      match r, src with
      | .eivpr n, .ext m => if m = n then v &&& eivprMask else p.vpr (.ext m)
      | .iivpr n, .int m => if m = n then v &&& iivprMask else p.vpr (.int m)
      | _, _ => p.vpr src := by
  cases r <;> cases src <;> simp only [Pic.write, Pic.vpr, ext_set_eq, int_set_eq] <;>
    split <;> simp_all

/-- A write to a destination register changes that source's, under the destination bits, and no other's (R249). -/
theorem write_dest (p : Pic) (r : PicReg) (v : Word) (src : Source) :
    (p.write r v).dest src =
      match r, src with
      | .eidr n, .ext m => if m = n then v &&& destMask else p.dest (.ext m)
      | .iidr n, .int m => if m = n then v &&& destMask else p.dest (.int m)
      | _, _ => p.dest src := by
  cases r <;> cases src <;> simp only [Pic.write, Pic.dest, ext_set_eq, int_set_eq] <;>
    split <;> simp_all

/-- A write to a PIC register leaves every external source's pin, latched edge and service as they are (R249). -/
theorem write_ext_request (p : Pic) (r : PicReg) (v : Word) (m : Fin 12) :
    (p.write r v).ext[m].pin = p.ext[m].pin ∧ (p.write r v).ext[m].edge = p.ext[m].edge ∧
      (p.write r v).ext[m].inService = p.ext[m].inService := by
  cases r <;> simp only [Pic.write, ext_set_eq, and_self] <;> split <;>
    first | (rename_i h; subst h; exact ⟨rfl, rfl, rfl⟩) | exact ⟨rfl, rfl, rfl⟩

/-- A write to a PIC register leaves every internal source's input and service as they are (R249). -/
theorem write_int_request (p : Pic) (r : PicReg) (v : Word) (m : Fin 64) :
    (p.write r v).int[m].pin = p.int[m].pin ∧ (p.write r v).int[m].inService = p.int[m].inService := by
  cases r <;> simp only [Pic.write, int_set_eq, and_self] <;> split <;>
    first | (rename_i h; subst h; exact ⟨rfl, rfl⟩) | exact ⟨rfl, rfl⟩

theorem setPin_vpr (p : Pic) (high : Bool) (s src : Source) : (p.setPin high s).vpr src = p.vpr src := by
  cases s <;> cases src <;> simp only [Pic.setPin, Pic.vpr, ext_set_eq, int_set_eq] <;>
    split <;> simp_all [ExtSource.setPin]

theorem setPin_dest (p : Pic) (high : Bool) (s src : Source) : (p.setPin high s).dest src = p.dest src := by
  cases s <;> cases src <;> simp only [Pic.setPin, Pic.dest, ext_set_eq, int_set_eq] <;>
    split <;> simp_all [ExtSource.setPin]

theorem acknowledge_vpr (p : Pic) (s src : Source) : (p.acknowledge s).vpr src = p.vpr src := by
  cases s <;> cases src <;> simp only [Pic.acknowledge, Pic.vpr, ext_set_eq, int_set_eq] <;>
    split <;> simp_all

theorem acknowledge_dest (p : Pic) (s src : Source) : (p.acknowledge s).dest src = p.dest src := by
  cases s <;> cases src <;> simp only [Pic.acknowledge, Pic.dest, ext_set_eq, int_set_eq] <;>
    split <;> simp_all

theorem endService_vpr (p : Pic) (s src : Source) : (p.endService s).vpr src = p.vpr src := by
  cases s <;> cases src <;> simp only [Pic.endService, Pic.vpr, ext_set_eq, int_set_eq] <;>
    split <;> simp_all

theorem endService_dest (p : Pic) (s src : Source) : (p.endService s).dest src = p.dest src := by
  cases s <;> cases src <;> simp only [Pic.endService, Pic.dest, ext_set_eq, int_set_eq] <;>
    split <;> simp_all

theorem readIack_vpr (c : Config) (p : Pic) (src : Source) : (Pic.readIack c p).2.vpr src = p.vpr src := by
  have h : ∀ q : Pic, ∀ w, ({ q with iack := w } : Pic).vpr src = q.vpr src := by intro q w; cases src <;> rfl
  simp only [Pic.readIack, h]
  split
  · split
    · exact acknowledge_vpr p _ src
    · rfl
  · rfl

theorem readIack_dest (c : Config) (p : Pic) (src : Source) : (Pic.readIack c p).2.dest src = p.dest src := by
  have h : ∀ q : Pic, ∀ w, ({ q with iack := w } : Pic).dest src = q.dest src := by intro q w; cases src <;> rfl
  simp only [Pic.readIack, h]
  split
  · split
    · exact acknowledge_dest p _ src
    · rfl
  · rfl

theorem acknowledge_edge (p : Pic) (s : Source) (n : Fin 12) :
    (p.acknowledge s).ext[n].edge = if s = .ext n then false else p.ext[n].edge := by
  cases s with
  | ext m =>
    simp only [Pic.acknowledge, ext_set_eq, Source.ext.injEq, eq_comm (a := m)]
    split <;> rfl
  | int m => rfl

/-- A read of PIC_IACK clears one latched edge, that of the external source it acknowledges (R252). -/
theorem readIack_edge (c : Config) (p : Pic) (n : Fin 12) :
    (Pic.readIack c p).2.ext[n].edge =
      if c.iackAcknowledges = true ∧ Pic.highest c p = some (.ext n) then false else p.ext[n].edge := by
  unfold Pic.readIack
  cases hh : Pic.highest c p with
  | none => rw [if_neg (by simp)]
  | some src =>
    cases ha : c.iackAcknowledges
    · rw [if_neg (by simp)]; rfl
    · have h := acknowledge_edge p src n
      by_cases e : src = .ext n
      · rw [if_pos ⟨rfl, by rw [e]⟩]; rw [if_pos e] at h; exact h
      · rw [if_neg (fun k => e (Option.some.inj k.2))]; rw [if_neg e] at h; exact h

/-- When an external source requests (R250). -/
theorem ext_pending_iff (x : ExtSource) :
    x.pending = true ↔ if x.vpr.getLsbD 22 then x.pin = x.vpr.getLsbD 23 else x.edge = true := by
  unfold ExtSource.pending vprLevel vprActiveHigh
  split <;> simp

/-- When a new pin level sets an edge that was not latched (R250). -/
theorem ext_setPin_edge (x : ExtSource) (high : Bool) (h : x.edge = false) :
    (x.setPin high).edge = true ↔
      high = x.vpr.getLsbD 23 ∧ x.vpr.getLsbD 22 = false ∧ x.pin ≠ x.vpr.getLsbD 23 := by
  simp only [ExtSource.setPin, h, vprLevel, vprActiveHigh, Bool.false_or, Bool.and_eq_true, Bool.not_eq_true',
    bne_iff_ne, beq_iff_eq]
  exact and_comm.trans (and_congr_right fun _ => Iff.rfl)

/-- What each event does to an external source's latched edge (R250, R252). -/
theorem applyEvent_edge (s : State) (e : EnvEvent) (n : Fin 12) :
    (s.applyEvent e).pic.ext[n].edge =
      match e with
      | .setPin (.ext m) high => if m = n then (s.pic.ext[n].setPin high).edge else s.pic.ext[n].edge
      | .readIack =>
        if s.config.iackAcknowledges = true ∧ Pic.highest s.config s.pic = some (.ext n) then false
        else s.pic.ext[n].edge
      | _ => s.pic.ext[n].edge := by
  cases e with
  | setPin src high =>
    cases src with
    | ext m =>
      simp only [State.applyEvent, Pic.setPin, ext_set_eq, eq_comm (a := n)]
      split <;> simp_all
    | int m => rfl
  | readIack => exact readIack_edge _ _ n
  | endOfService src =>
    cases src with
    | ext m => simp only [State.applyEvent, Pic.endService, ext_set_eq]; split <;> simp_all
    | int m => rfl
  | _ => rfl

/-- No event changes a vector/priority or destination register (R7: only core stores do). -/
theorem applyEvent_vpr (s : State) (e : EnvEvent) (src : Source) :
    (s.applyEvent e).pic.vpr src = s.pic.vpr src := by
  cases e <;> simp [State.applyEvent, setPin_vpr, readIack_vpr, endService_vpr]

theorem applyEvent_dest (s : State) (e : EnvEvent) (src : Source) :
    (s.applyEvent e).pic.dest src = s.pic.dest src := by
  cases e <;> simp [State.applyEvent, setPin_dest, readIack_dest, endService_dest]

theorem applyEvents_vpr (s : State) (es : List EnvEvent) (src : Source) :
    (s.applyEvents es).pic.vpr src = s.pic.vpr src := by
  induction es generalizing s with
  | nil => rfl
  | cons e es ih => rw [State.applyEvents, ih, applyEvent_vpr]

theorem applyEvents_dest (s : State) (es : List EnvEvent) (src : Source) :
    (s.applyEvents es).pic.dest src = s.pic.dest src := by
  induction es generalizing s with
  | nil => rfl
  | cons e es ih => rw [State.applyEvents, ih, applyEvent_dest]

theorem arrive_vpr (s : State) (src : Source) : s.arrive.pic.vpr src = s.pic.vpr src := by
  unfold State.arrive; split
  · rfl
  · exact applyEvents_vpr _ _ _

theorem arrive_dest (s : State) (src : Source) : s.arrive.pic.dest src = s.pic.dest src := by
  unfold State.arrive; split
  · rfl
  · exact applyEvents_dest _ _ _

theorem mem_allSources (src : Source) : src ∈ allSources := by
  cases src <;> simp only [allSources, List.mem_append, List.mem_ofFn]
  · exact .inl ⟨_, rfl⟩
  · exact .inr ⟨_, rfl⟩

theorem mem_picRegs (r : PicReg) : r ∈ picRegs := by
  cases r <;> unfold picRegs
  · exact List.mem_cons_self
  all_goals
    apply List.mem_cons_of_mem
    simp only [List.mem_append, List.mem_ofFn]
  · exact .inl (.inl (.inl ⟨_, rfl⟩))
  · exact .inl (.inl (.inr ⟨_, rfl⟩))
  · exact .inl (.inr ⟨_, rfl⟩)
  · exact .inr ⟨_, rfl⟩

/-- The offsets of R245 are all different. -/
theorem picRegOffset_injective {r q : PicReg} (h : picRegOffset r = picRegOffset q) : r = q := by
  cases r <;> cases q <;> simp only [picRegOffset] at h <;> first
    | rfl
    | (congr 1; apply Fin.ext; omega)
    | (exfalso; omega)

/-- The register found at an offset is the one R245 gives that offset. -/
theorem picRegAt_some {off : Nat} {r : PicReg} (h : picRegAt off = some r) : picRegOffset r = off := by
  simpa using List.find?_some h

theorem picRegAt_offset (r : PicReg) : picRegAt (picRegOffset r) = some r := by
  unfold picRegAt
  cases h : picRegs.find? (fun q => picRegOffset q == picRegOffset r) with
  | none => exact absurd (List.find?_eq_none.mp h r (mem_picRegs r)) (by simp)
  | some q =>
    have hq : picRegOffset q = picRegOffset r := by simpa using List.find?_some h
    rw [picRegOffset_injective hq]

theorem picRegAt_eq_some_iff (off : Nat) (r : PicReg) : picRegAt off = some r ↔ off = picRegOffset r :=
  ⟨fun h => (picRegAt_some h).symm, fun h => h ▸ picRegAt_offset r⟩

theorem picOffset_of_register (c : Config) (r : PicReg) :
    picOffset c (c.ccsrbar + BitVec.ofNat 32 (picRegOffset r)) = picRegOffset r := by
  have h : picRegOffset r < 2 ^ 32 := by cases r <;> simp only [picRegOffset] <;> omega
  rw [picOffset, BitVec.add_comm, BitVec.add_sub_cancel, BitVec.toNat_ofNat, Nat.mod_eq_of_lt h]

/-- The requests to the modelled core (R250, R251). -/
theorem mem_requests (c : Config) (p : Pic) (s : Source) :
    s ∈ Pic.requests c p ↔ p.eligible s = true ∧ destSelects (p.dest s) c.coreId = true := by
  simp [Pic.requests, mem_allSources]

/-- Some source meets a condition exactly when the test of all sources finds one. -/
theorem any_allSources (f : Source → Bool) : allSources.any f = true ↔ ∃ s, f s = true := by
  simp [List.any_eq_true, mem_allSources]

/-- A source is eligible exactly when it is pending, MSK = 0 and PRIORITY is not 0 (R250). -/
theorem eligible_iff (p : Pic) (s : Source) :
    p.eligible s = true ↔
      p.pending s = true ∧ (p.vpr s).getLsbD 31 = false ∧ (p.vpr s).extractLsb' 16 4 ≠ 0 := by
  simp [Pic.eligible, vprMasked, vprPriority, and_assoc]

/-- With no eligible source the PIC asserts none of its outputs. -/
theorem outputs_of_no_eligible (c : Config) (p : Pic) (h : ∀ s, p.eligible s = false) :
    Pic.extInt c p = false ∧ p.critOut = false ∧ p.irqOut = false := by
  simp [Pic.extInt, Pic.requests, Pic.critOut, Pic.irqOut, h]

/-! ### What an event does -/

/-- The events of a boundary are applied one after another, in order. -/
theorem applyEvents_eq_foldl (s : State) (es : List EnvEvent) : s.applyEvents es = es.foldl State.applyEvent s := by
  induction es generalizing s with
  | nil => rfl
  | cons e es ih => rw [State.applyEvents, ih, List.foldl_cons]

theorem setPin_inService (p : Pic) (high : Bool) (s q : Source) :
    (p.setPin high s).inService q = p.inService q := by
  cases s <;> cases q <;> simp only [Pic.setPin, Pic.inService, ext_set_eq, int_set_eq] <;>
    split <;> simp_all [ExtSource.setPin]

theorem endService_inService (p : Pic) (s q : Source) :
    (p.endService s).inService q = if s = q then false else p.inService q := by
  cases s <;> cases q <;> simp only [Pic.endService, Pic.inService, ext_set_eq, int_set_eq, eq_comm] <;>
    split <;> simp_all

theorem acknowledge_inService (p : Pic) (s q : Source) :
    (p.acknowledge s).inService q = if s = q then true else p.inService q := by
  cases s <;> cases q <;> simp only [Pic.acknowledge, Pic.inService, ext_set_eq, int_set_eq, eq_comm] <;>
    split <;> simp_all

/-- A read of PIC_IACK marks in service the source it acknowledges, and no other (R252). -/
theorem readIack_inService (c : Config) (p : Pic) (q : Source) :
    (Pic.readIack c p).2.inService q =
      if c.iackAcknowledges = true ∧ Pic.highest c p = some q then true else p.inService q := by
  have h : ∀ (r : Pic) (w : Word), ({ r with iack := w } : Pic).inService q = r.inService q := by
    intro r w; cases q <;> rfl
  simp only [Pic.readIack, h]
  cases Pic.highest c p with
  | none => simp
  | some src => cases c.iackAcknowledges <;> simp [acknowledge_inService]

/-- A read of PIC_IACK drives no input. -/
theorem readIack_pins (c : Config) (p : Pic) :
    (∀ n : Fin 12, (Pic.readIack c p).2.ext[n].pin = p.ext[n].pin) ∧
      ∀ n : Fin 64, (Pic.readIack c p).2.int[n].pin = p.int[n].pin := by
  have h : ∀ src, (∀ n : Fin 12, (p.acknowledge src).ext[n].pin = p.ext[n].pin) ∧
      ∀ n : Fin 64, (p.acknowledge src).int[n].pin = p.int[n].pin := by
    intro src
    cases src <;> refine ⟨fun n => ?_, fun n => ?_⟩ <;> simp only [Pic.acknowledge, ext_set_eq, int_set_eq] <;>
      split <;> simp_all
  unfold Pic.readIack
  cases Pic.highest c p with
  | none => exact ⟨fun _ => rfl, fun _ => rfl⟩
  | some src =>
    cases c.iackAcknowledges
    · exact ⟨fun _ => rfl, fun _ => rfl⟩
    · exact h src

/-! ### Enabling -/

/-- What may be taken is pending and enabled (R212). -/
theorem candidate_some {s : State} {a : AsyncInt} (h : s.candidate = some a) :
    s.enabled a = true ∧ s.pending a = true := by
  have := List.find?_some h
  simpa using this

theorem mem_allAsync (a : AsyncInt) : a ∈ allAsync := by cases a <;> decide

/-- Nothing may be taken exactly when nothing is both pending and enabled. -/
theorem candidate_none_iff (s : State) :
    s.candidate = none ↔ ∀ a, (s.enabled a && s.pending a) = false := by
  unfold State.candidate
  rw [List.find?_eq_none]
  constructor
  · intro h a
    simpa using h a (List.mem_append_right _ (mem_allAsync a))
  · intro h a _
    simp [h a]

/-! ### The boundary -/

/-- The state a boundary hands on is the one the events left, but for the count of free values. -/
theorem arrive_of_nil {s : State} (h : s.inputs = []) : s.arrive = s := by
  unfold State.arrive; rw [h]

theorem boundary_interrupt {s t : State} {a : AsyncInt} (h : boundary s = .interrupt a t) :
    s.arrive.candidate = some a ∧ ∃ k, t = { s.arrive with freeIx := k } := by
  unfold boundary at h
  split at h
  · cases h
  · rename_i c b rest hc hi
    split at h
    · cases h; exact ⟨hc, s.arrive.freeIx, rfl⟩
    · cases h
  · rename_i c hc hi
    split at h
    · cases h
      rw [arrive_of_nil hi] at hc ⊢
      exact ⟨hc, s.freeIx + 1, rfl⟩
    · cases h

theorem boundary_run {s t : State} (h : boundary s = .run t) : ∃ k, t = { s.arrive with freeIx := k } := by
  unfold boundary at h
  split at h
  · cases h; exact ⟨s.arrive.freeIx, rfl⟩
  · split at h
    · cases h
    · cases h; exact ⟨s.arrive.freeIx, rfl⟩
  · rename_i c hc hi
    split at h
    · cases h
    · cases h
      rw [arrive_of_nil hi]
      exact ⟨s.freeIx + 1, rfl⟩

/-- Events and the boundary's choice leave the MSR as it is. -/
theorem boundary_run_msr {s t : State} (h : boundary s = .run t) : t.msr = s.msr := by
  obtain ⟨k, rfl⟩ := boundary_run h
  exact arrive_msr s

theorem boundary_interrupt_msr {s t : State} {a : AsyncInt} (h : boundary s = .interrupt a t) : t.msr = s.msr := by
  obtain ⟨_, k, rfl⟩ := boundary_interrupt h
  exact arrive_msr s

theorem boundary_of_no_candidate {s : State} (h : s.arrive.candidate = none) : boundary s = .run s.arrive := by
  simp only [boundary, h]

/-! ### The step -/

/-- Fetch, decode, execute: a run of one instruction that goes on. -/
theorem runInstruction_next {s t : State} (h : runInstruction s = .next t) :
    ∃ w i, fetch s = .word w ∧ decode w = .ok i ∧ exec i s = .next t := by
  unfold runInstruction at h
  split at h
  · rename_i w hw
    split at h
    · exact ⟨w, _, hw, ‹_›, h⟩
    · cases h
  · cases h
  · cases h

theorem runInstruction_eq {s : State} {w : Word} {i : Instr} (hw : fetch s = .word w) (hi : decode w = .ok i) :
    runInstruction s = exec i s := by
  simp only [runInstruction, hw, hi]

/-- A step that goes on took an asynchronous interrupt or executed one decoded instruction. -/
theorem step_next {s t : State} (h : step s = .next t) :
    (∃ a u, boundary s = .interrupt a u ∧ t = u.takeAsync a) ∨
      ∃ u w i, boundary s = .run u ∧ fetch u = .word w ∧ decode w = .ok i ∧ exec i u = .next t := by
  unfold step at h
  split at h
  · exact .inl ⟨_, _, ‹_›, by simpa using h.symm⟩
  · obtain ⟨w, i, hw, hi, he⟩ := runInstruction_next h
    exact .inr ⟨_, w, i, ‹_›, hw, hi, he⟩

end Sys2Proof.Machine
end

