-- ==== Sys2Proof/Tests/Slice0.lean ====
section
/-!
SUPPORT. Tests: ill-formed terms are refused, words written out from the formats decode, one-step results from
spec/95_test_vectors.md, and for each statement with hypotheses a witness that meets them.
-/

namespace Sys2Proof.Tests

open Sys2Proof.Machine

/-! ### Helpers -/

/-- The starting point of section 2 of 95_test_vectors.md: `pc` = 0000_1000, MSR = 0; the rest as at reset. -/
def start : State := { State.reset with pc := 0x1000 }

/-- `start` with two general registers set. -/
def regs (r q : Reg) (v u : Word) : State := (start.setReg r v).setReg q u

/-- The outcome is a next state with this property. -/
def nextIs (o : Host.Outcome State Fault Refusal) (p : State → Bool) : Bool :=
  match o with
  | .next t => p t
  | .fault _ => false
  | .refused _ => false

/-- The outcome is this refusal. -/
def refusedBy (o : Host.Outcome State Fault Refusal) (r : Refusal) : Bool :=
  match o with
  | .next _ => false
  | .fault _ => false
  | .refused q => q == r

/-- One step that runs the word `w` at `s`. -/
def runWord (s : State) (w : Nat) : Host.Outcome State Fault Refusal := step (s.withFetchWord 32 w)

/-! ### Well-formedness: an ill-formed term for each check -/

theorem test_wf_refuses_stwu_ra0 : Instr.wf (.stwu 3 0 4) = false := by decide
theorem test_wf_refuses_mtspr_read_only : Instr.wf (.mtspr 287 3) = false := by decide
theorem test_wf_refuses_mtspr_not_admitted : Instr.wf (.mtspr 22 3) = false := by decide
theorem test_wf_refuses_mfspr_not_admitted : Instr.wf (.mfspr 3 22) = false := by decide
theorem test_wf_accepts : Instr.wf (.stwu 1 1 0xFFF0) = true ∧ Instr.wf (.mtspr 275 3) = true ∧
    Instr.wf (.mfspr 3 287) = true := by decide

/-! ### Decoding: a word of each row written out from its format (R112 to R118) -/

theorem test_decode_addi : decode 0b001110_00011_00001_1000000000000001 = .ok (.addi 3 1 0x8001) := by decide
theorem test_decode_addis : decode 0b001111_00001_00000_1111111111111000 = .ok (.addis 1 0 0xFFF8) := by decide
theorem test_decode_sc : decode 0b010001_00000_00000_0000000000000010 = .ok .sc := by decide
theorem test_decode_b : decode 0b010010_100000000000000000000001_1_0 = .ok (.b 0x800001 true false) := by decide
theorem test_decode_bclr : decode 0b010011_01100_00010_00000_0000010000_1 = .ok (.bclr 12 2 true) := by decide
theorem test_decode_rfi : decode 0b010011_00000_00000_00000_0000110010_0 = .ok .rfi := by decide
theorem test_decode_rlwinm :
    decode 0b010101_00100_00101_01000_11000_00111_1 = .ok (.rlwinm 4 5 8 24 7 true) := by decide
theorem test_decode_ori : decode 0b011000_00011_00100_1111111111111111 = .ok (.ori 3 4 0xFFFF) := by decide
theorem test_decode_mfmsr : decode 0b011111_00011_0000000000_0001010011_0 = .ok (.mfmsr 3) := by decide
theorem test_decode_mtmsr : decode 0b011111_11111_0000000000_0010010010_0 = .ok (.mtmsr 31) := by decide
theorem test_decode_mfspr : decode 0b011111_00000_01000_00000_0101010011_0 = .ok (.mfspr 0 8) := by decide
theorem test_decode_mtspr : decode 0b011111_00011_10011_01000_0111010011_0 = .ok (.mtspr 275 3) := by decide
theorem test_decode_stwu : decode 0b100101_00011_00100_1111111111110000 = .ok (.stwu 3 4 0xFFF0) := by decide

/-- R124, R125: a reserved bit, a LEV field and an instruction outside the spec (`sync`) match no row. -/
theorem test_decode_rejects : decode 0x4E800820 = .error (.notInSpec 0x4E800820) ∧
    decode 0x44000022 = .error (.notInSpec 0x44000022) ∧ decode 0x7C0004AC = .error (.notInSpec 0x7C0004AC) := by
  decide

theorem test_decode_truncated : decodeBytes [0x60, 0x00, 0x00] = .error .truncated := by decide

theorem test_decodeTableWord : decodeTableWord 32 0x7C7343A6 = some (.mtspr 275 3) ∧
    decodeTableWord 16 0x6000 = none := by decide

/-! ### Integer instructions (95_test_vectors.md 2.1 to 2.3) -/

theorem test_addi_wraps : nextIs (runWord (regs 3 4 0xFFFFFFFF 7) 0x38830001)
    (fun t => t.reg 4 == 0 && t.reg 3 == 0xFFFFFFFF && t.pc == 0x1004) = true := by decide
theorem test_addi_ra0_is_zero : nextIs (runWord (regs 0 1 5 5) 0x38208000)
    (fun t => t.reg 1 == 0xFFFF8000 && t.reg 0 == 5) = true := by decide
theorem test_addis_wraps : nextIs (runWord (regs 3 4 0xFFFF1234 0) 0x3C630001)
    (fun t => t.reg 3 == 0x00001234) = true := by decide
theorem test_addis_other_target : nextIs (runWord (regs 4 5 0x00010000 9) 0x3CA4FFFF)
    (fun t => t.reg 5 == 0 && t.reg 4 == 0x00010000) = true := by decide
theorem test_ori_zero_extends : nextIs (runWord start 0x60428000) (fun t => t.reg 2 == 0x8000) = true := by decide
theorem test_ori_reads_r0 : nextIs (runWord (regs 0 5 0x10 0) 0x60050001)
    (fun t => t.reg 5 == 0x11 && t.reg 0 == 0x10) = true := by decide
theorem test_rlwinm_wrapped_mask : nextIs (runWord (regs 6 7 0x11223344 0) 0x54C6460E)
    (fun t => t.reg 6 == 0x22000011 && t.cr == 0) = true := by decide
theorem test_rlwinm_records : nextIs (runWord { regs 4 5 0x80000000 0 with xer := 0x80000000 } 0x54850001)
    (fun t => t.reg 5 == 0x80000000 && t.cr == 0x90000000) = true := by decide

/-! ### Branches (2.4, 2.5) -/

theorem test_ba_negative : nextIs (runWord start 0x4BFFFFFE)
    (fun t => t.pc == 0xFFFFFFFC && t.lr == 0) = true := by decide
theorem test_bl_forward : nextIs (runWord start 0x49FFFFFD)
    (fun t => t.pc == 0x02000FFC && t.lr == 0x1004) = true := by decide
theorem test_bclr_ctr_reaches_zero : nextIs (runWord { start with lr := 0x2000, ctr := 1 } 0x4E000020)
    (fun t => t.ctr == 0 && t.pc == 0x1004) = true := by decide
theorem test_bclrl_swaps : nextIs (runWord { start with lr := 0x2002 } 0x4E800021)
    (fun t => t.pc == 0x2000 && t.lr == 0x1004) = true := by decide

/-! ### The store (2.6) -/

theorem test_stwu_pushes : nextIs (runWord (regs 1 2 0x00020000 0) 0x9421FFF0)
    (fun t => t.reg 1 == 0x0001FFF0 && Memory.readWord t.mem 0x0001FFF0 == some 0x00020000 &&
      Memory.readByte t.mem 0x0001FFF1 == some 0x02 && t.stored == [0x1FFF0, 0x1FFF1, 0x1FFF2, 0x1FFF3]) = true := by
  decide
/-- `stwu r3,8(r4)` with r4 = CCSRBAR + 4_FFF8h writes PIC_EIVPR0's writable fields. -/
theorem test_stwu_pic : nextIs (runWord (regs 3 4 0x7FFFFFFF 0xFF74FFF8) 0x94640008)
    (fun t => t.pic.vpr (.ext 0) == 0x00CFFFFF && t.pic.vpr (.ext 1) == 0x80000000 && t.reg 4 == 0xFF750000) = true := by
  decide

/-! ### System instructions (2.7 to 2.9) -/

/-- The user-mode state of section 2.7. -/
def user : State := { start with msr := 0x4000, ivpr := 0xFFF80000, ivor := start.ivor.set 6 0x700 }

theorem test_mtspr_masks_ivor : nextIs (runWord (regs 1 2 0xFFFFFFFF 0) 0x7C3463A6)
    (fun t => t.ivorOf .externalInput == 0xFFF0 && t.ivorOf .alignment == 0) = true := by decide
/-- `mtspr 22,r3` in user mode: privilege comes before admission. -/
theorem test_mtspr_user_traps : nextIs (runWord user 0x7C7603A6)
    (fun t => t.srr0 == 0x1000 && t.srr1 == 0x4000 && t.esr == 0x04000000 && t.msr == 0 && t.pc == 0xFFF80700) = true := by
  decide
theorem test_mfspr_user_alias : nextIs (runWord { user with sprg := user.sprg.set 4 7 } 0x7C6442A6)
    (fun t => t.reg 3 == 7 && t.pc == 0x1004) = true := by decide
theorem test_mfspr_pvr : nextIs (runWord start 0x7C7F42A6) (fun t => t.reg 3 == 0x80210010) = true := by decide
theorem test_mtmsr_masks : nextIs (runWord (regs 3 4 0xFFFBFFFF 0) 0x7C600124)
    (fun t => t.msr == 0x0602FF34 && t.pc == 0x1004) = true := by decide
theorem test_mtmsr_user_traps : nextIs (runWord { user with msr := 0x0002D000 } 0x7C600124)
    (fun t => t.srr0 == 0x1000 && t.srr1 == 0x0002D000 && t.msr == 0x00021000 && t.pc == 0xFFF80700) = true := by decide
theorem test_mfmsr_reads : nextIs (runWord { start with msr := 0x00021200 } 0x7C6000A6)
    (fun t => t.reg 3 == 0x00021200) = true := by decide
theorem test_mfmsr_user_traps : nextIs (runWord { user with ivpr := 0x00010000, ivor := start.ivor } 0x7C6000A6)
    (fun t => t.srr1 == 0x4000 && t.esr == 0x04000000 && t.pc == 0x00010000 && t.reg 3 == 0) = true := by decide
theorem test_sc_enters : nextIs
    (runWord { start with pc := 0x00010000, msr := 0x0002D000, ivpr := 0xFFF80000, ivor := start.ivor.set 8 0x900 }
      0x44000002)
    (fun t => t.srr0 == 0x00010004 && t.srr1 == 0x0002D000 && t.msr == 0x00021000 && t.pc == 0xFFF80900 &&
      t.esr == 0) = true := by decide
theorem test_sc_wraps : nextIs (runWord { start with pc := 0xFFFFFFFC, msr := 0x0602FF34, ivpr := 0x00010000 } 0x44000002)
    (fun t => t.srr0 == 0 && t.srr1 == 0x0602FF34 && t.msr == 0x00021200 && t.pc == 0x00010000) = true := by decide
theorem test_rfi_returns : nextIs (runWord { start with srr0 := 0x00010007, srr1 := 0xFFFBFFFF } 0x4C000064)
    (fun t => t.msr == 0x0602FF34 && t.pc == 0x00010004) = true := by decide
theorem test_rfi_user_traps : nextIs (runWord user 0x4C000064)
    (fun t => t.srr0 == 0x1000 && t.esr == 0x04000000 && t.pc == 0xFFF80700) = true := by decide

/-! ### What stops (2.6, 2.7, 2.8; R83, R98, R125) -/

theorem test_refusals : refusedBy (runWord (regs 4 3 0x1000 0) 0x94640002) (.misalignedStore 0x1002) = true ∧
    refusedBy (runWord start 0x94600004) .stwuInvalidForm = true ∧
    refusedBy (runWord start 0x7C7603A6) (.mtsprOutsideSpec 22) = true ∧
    refusedBy (runWord (regs 3 4 0xFFFFFFFF 0) 0x7C600124) .msrWeSet = true ∧
    refusedBy (runWord start 0x44000022) (.instructionNotInSpec 0x44000022) = true := by decide

/-- From reset with nothing placed, the first fetch finds no byte (log 6, log 33). -/
theorem test_reset_fetch : fetch State.reset = .fault (.unwrittenByte 0xFFFFFFFC) := by decide

/-- `withFetchWord` at reset: the word runs as the first instruction. -/
theorem test_first_instruction : nextIs (step (State.reset.withFetchWord 32 0x3860FFFF))
    (fun t => t.reg 3 == 0xFFFFFFFF && t.pc == 0) = true := by decide

/-! ### Interrupts (2.10) -/

/-- External interrupt 0 programmed as level-sensitive, active-high, priority 8, vector 0x21. -/
def picOn : Pic := (Pic.reset.write (.eivpr 0) 0x00C80021).setPin true (.ext 0)

/-- The state of the first row of 2.10, with `int` asserted. -/
def extState : State :=
  { start with pc := 0x00100000, msr := 0x00029200, ivor := start.ivor.set 4 0x500, pic := picOn,
               inputs := [⟨[], true⟩] }

theorem test_external_input : nextIs (step extState)
    (fun t => t.srr0 == 0x00100000 && t.srr1 == 0x00029200 && t.msr == 0x00021200 && t.pc == 0x00000500 &&
      t.pending .externalInput) = true := by decide
theorem test_external_input_disabled : { extState with msr := 0x00021200 }.candidate = none := by decide
theorem test_external_before_decrementer :
    { extState with pend := { Pending.reset with dec := true } }.candidate = some .externalInput := by decide
theorem test_critical_input : nextIs
    (step { extState with pc := 0x2000, ivor := start.ivor.set 0 0x100, srr0 := 7, inputs := [⟨[.setCritInt true], true⟩] })
    (fun t => t.csrr0 == 0x2000 && t.csrr1 == 0x00029200 && t.msr == 0x00001000 && t.pc == 0x100 && t.srr0 == 7) = true := by
  decide

/-- A read of PIC_IACK returns the vector and marks the source in service; the activity bit shows it (R246, R252). -/
theorem test_iack : (Pic.readIack Config.default picOn).1 = 0x21 ∧
    (Pic.readIack Config.default picOn).2.inService (.ext 0) = true ∧
    picOn.content (.eivpr 0) = 0x40C80021 ∧ (Pic.readIack Config.default Pic.reset).1 = 0xFFFF := by decide

/-- An edge-sensitive active-low source stays pending after its pin goes inactive again, until acknowledged (R250). -/
theorem test_edge :
    let p := ((Pic.reset.write (.eivpr 3) 0x00050033).setPin false (.ext 3)).setPin true (.ext 3)
    p.pending (.ext 3) = true ∧ (Pic.readIack Config.default p).2.pending (.ext 3) = false := by decide

/-- A source with CI = 1 and P0 = 0 asserts `cint` and not `int`, and is taken through IVOR0 (R248). -/
theorem test_critical_destination : nextIs
    (step { extState with ivor := start.ivor.set 0 0x100, msr := 0x00028000, pic := picOn.write (.eidr 0) 0x40000000 })
    (fun t => t.csrr0 == 0x00100000 && t.msr == 0 && t.pc == 0x100 && !Pic.extInt t.config t.pic &&
      t.pic.critOut && !t.pic.irqOut) = true := by decide

/-! ### Witnesses: for each statement with hypotheses, values that meet them -/

/-- `start` with the word `w` where the next fetch reads it. -/
def at1000 (w : Word) : State := start.loadWord 0x1000 w

theorem witness_EveryRowDecodesItsWords :
    (0x3BFFFFFF : Word) &&& 0xFC000000 = 0x38000000 ∧ (0x3FFFFFFF : Word) &&& 0xFC000000 = 0x3C000000 ∧
    (0x4BFFFFFF : Word) &&& 0xFC000000 = 0x48000000 ∧ (0x4FFF0021 : Word) &&& 0xFC00FFFE = 0x4C000020 ∧
    (0x57FFFFFF : Word) &&& 0xFC000000 = 0x54000000 ∧ (0x63FFFFFF : Word) &&& 0xFC000000 = 0x60000000 ∧
    (0x7FE000A6 : Word) &&& 0xFC1FFFFF = 0x7C0000A6 ∧ (0x7FE00124 : Word) &&& 0xFC1FFFFF = 0x7C000124 ∧
    (0x7FFFFAA6 : Word) &&& 0xFC0007FF = 0x7C0002A6 ∧ (0x7FFFFBA6 : Word) &&& 0xFC0007FF = 0x7C0003A6 ∧
    (0x97FFFFFF : Word) &&& 0xFC000000 = 0x94000000 := by decide

theorem witness_WordOutsideTableIsRefused : boundary (at1000 0x7C0004AC) = .run (at1000 0x7C0004AC) ∧
    fetch (at1000 0x7C0004AC) = .word 0x7C0004AC ∧
    ∀ p ∈ [((0x38000000 : Word), (0xFC000000 : Word)), (0x3C000000, 0xFC000000), (0x44000002, 0xFFFFFFFF),
        (0x48000000, 0xFC000000), (0x4C000020, 0xFC00FFFE), (0x4C000064, 0xFFFFFFFF), (0x54000000, 0xFC000000),
        (0x60000000, 0xFC000000), (0x7C0000A6, 0xFC1FFFFF), (0x7C000124, 0xFC1FFFFF), (0x7C0002A6, 0xFC0007FF),
        (0x7C0003A6, 0xFC0007FF), (0x94000000, 0xFC000000)], (0x7C0004AC : Word) &&& p.2 ≠ p.1 :=
  ⟨boundary_of_no_candidate (s := at1000 0x7C0004AC) (by decide), by decide, by simp⟩

theorem witness_EncodeOfDecode : decode 0x97E1FFFF = .ok (.stwu 31 1 0xFFFF) := by decide

theorem witness_StepRunsDecodedInstruction :
    (boundary (at1000 0x7C7343A6) = .run (at1000 0x7C7343A6) ∧ isMemWord Config.default 0x1000 = true ∧
      (∀ k < 4, ((0x1000 : Word) + BitVec.ofNat 32 k).toNat ∉ (at1000 0x7C7343A6).stored) ∧
      Memory.readByte (at1000 0x7C7343A6).mem 0x1000 = some 0x7C ∧
      Memory.readByte (at1000 0x7C7343A6).mem 0x1001 = some 0x73 ∧
      Memory.readByte (at1000 0x7C7343A6).mem 0x1002 = some 0x43 ∧
      Memory.readByte (at1000 0x7C7343A6).mem 0x1003 = some 0xA6 ∧
      decodeBytes [0x7C, 0x73, 0x43, 0xA6] = .ok (.mtspr 275 3, [])) ∧
    (start.inputs = [] ∧ start.candidate = none) :=
  ⟨⟨boundary_of_no_candidate (s := at1000 0x7C7343A6) (by decide), by decide, by decide, by decide, by decide, by decide,
    by decide, by decide⟩, by decide⟩

theorem witness_BoundaryTakesOrRuns :
    (let s := { start with inputs := [⟨[.setDecrementer true, .setDecrementer false, .setFixedInterval true], false⟩] }
     s.arrive = { start with pend := { Pending.reset with fit := true } }) ∧
    start.arrive.candidate = none ∧
    (extState.inputs = ⟨[], true⟩ :: [] ∧ extState.arrive.candidate = some .externalInput) ∧
    ({ extState with inputs := [] }.inputs = [] ∧
      { extState with inputs := [] }.candidate = some .externalInput) := by decide

/-- Outside memory: just below the top of the CCSR block, whose next word is memory. -/
theorem witness_FetchStops :
    (isMemWord Config.default 0xFF7FFFFC = false ∧ isMemWord Config.default 0xFF800000 = true) ∧
    (let s := (at1000 0x60000000).storeMem 0x1000 0
     isMemWord s.config s.pc = true ∧ ∃ k < 4, (s.pc + BitVec.ofNat 32 k).toNat ∈ s.stored) ∧
    (let s := { at1000 0x60000000 with pc := 0x1004 }
     isMemWord s.config s.pc = true ∧ (∀ k < 4, (s.pc + BitVec.ofNat 32 k).toNat ∉ s.stored) ∧
       ∃ k < 4, Memory.readByte s.mem (s.pc + BitVec.ofNat 32 k).toNat = none) := by
  decide

theorem witness_LoadedWordRunsNext : isMemWord State.reset.config State.reset.pc = true ∧
    decode (BitVec.ofNat 32 (0x60000000 % 2 ^ 32)) = .ok (.ori 0 0 0) := by decide

/-- Every BO value falls under exactly one of the nine rows. -/
theorem witness_BclrFollowsTheBoTable : ∀ bo : BitVec 5,
    ([[0, 1], [2, 3], [4, 5, 6, 7], [8, 9], [10, 11], [12, 13, 14, 15], [16, 17, 24, 25], [18, 19, 26, 27],
      [20, 21, 22, 23, 28, 29, 30, 31]].filter (fun row => row.contains bo.toNat)).length = 1 := by decide

/-- The top of memory: the bytes stored to are FFFF_FFFC to FFFF_FFFF. -/
theorem witness_StwuStoresWordAndUpdatesBase : (4 : Reg) ≠ 0 ∧
    ((regs 3 4 1 0).effectiveAddress 4 0xFFFC).toNat % 4 = 0 ∧
    isMemWord (regs 3 4 1 0).config ((regs 3 4 1 0).effectiveAddress 4 0xFFFC) = true := by decide

/-- The last register of the map, PIC_IIDR63, and the first, PIC_EIVPR0. -/
theorem witness_StwuWritesPicRegister :
    ((regs 3 4 0 0xFF7509F0).effectiveAddress 4 0 =
      Config.default.ccsrbar + BitVec.ofNat 32 (picRegOffset (.iidr 63)) ∧
      ((regs 3 4 0 0xFF7509F0).effectiveAddress 4 0).toNat % 4 = 0) ∧
    ((regs 3 4 0 0xFF74FFF8).effectiveAddress 4 8 =
      Config.default.ccsrbar + BitVec.ofNat 32 (picRegOffset (.eivpr 0)) ∧
      ((regs 3 4 0 0xFF74FFF8).effectiveAddress 4 8).toNat % 4 = 0) := by decide

/-- No register of the map lies at the PIC block's first or last word. -/
theorem picRegOffset_inside (r : PicReg) : picRegOffset r ≠ 0x40000 ∧ picRegOffset r ≠ 0x5FFFC := by
  cases r <;> simp only [picRegOffset] <;> omega

/-- The edges of the PIC block: offsets 4_0000h and 5_FFFCh inside it, 3_FFFCh and 6_0000h outside; and PIC_IACK. -/
theorem witness_StwuRefusals :
    let ea := fun base : Word => (regs 3 4 0 base).effectiveAddress 4 0
    ((regs 3 4 0 0x1000).effectiveAddress 4 3).toNat % 4 ≠ 0 ∧
    (∀ base ∈ [(0xFF7400A0 : Word), 0xFF740000, 0xFF75FFFC],
      inPicBlock Config.default (ea base) = true ∧ (ea base).toNat % 4 = 0 ∧
        ∀ r, r ≠ .iack → picRegOffset r ≠ picOffset Config.default (ea base)) ∧
    (∀ base ∈ [(0xFF73FFFC : Word), 0xFF760000],
      inPicBlock Config.default (ea base) = false ∧ (ea base).toNat % 4 = 0 ∧
        isMemWord Config.default (ea base) = false) := by
  refine ⟨by decide, ?_, ?_⟩ <;>
    simp only [List.forall_mem_cons, List.not_mem_nil, false_implies, implies_true, and_true]
  · exact ⟨⟨by decide, by decide, fun _ hr h => hr (picRegOffset_injective (q := .iack) (h.trans (by decide)))⟩,
      ⟨by decide, by decide, fun r _ h => (picRegOffset_inside r).1 (h.trans (by decide))⟩,
      by decide, by decide, fun r _ h => (picRegOffset_inside r).2 (h.trans (by decide))⟩
  · exact ⟨by decide, by decide⟩

theorem witness_SprPrivilegeIsBitFour : sprRow 22 = some ⟨22, "DEC", .supervisor, .refuse⟩ := by decide

/-- A user-mode write of XER and a supervisor write of IVOR35, the last IVOR. -/
theorem witness_MtsprWritesRegister :
    ((1 : BitVec 10).getLsbD 4 = false ∧ sprModel 1 = .rw .xer) ∧
    (start.pr = false ∧ sprModel 531 = .masked (.ivor .performanceMonitor) 0x0000FFF0) := by decide

theorem witness_MfsprReadsRegister :
    ((260 : BitVec 10).getLsbD 4 = false ∧ (sprModel 260).readable = true ∧ sprModel 260 = .ro (.sprg 4)) ∧
    (start.pr = false ∧ sprModel 286 = .roPir ∧ sprModel 287 = .roPvr) := by decide

theorem witness_SprOutsideSpecIsRefused :
    ((268 : BitVec 10).getLsbD 4 = false ∧ (sprModel 268).readable = false) ∧
    (start.pr = false ∧ (sprModel 287).writable = false) := by decide

theorem witness_SprReadAfterWrite : ((9 : BitVec 10).getLsbD 4 = false ∧ (sprModel 9).writable = true) ∧
    (start.pr = false ∧ (sprModel 63).writable = true ∧ (sprModel 415).writable = true ∧
      (sprModel 528).writable = true) := by decide

theorem witness_MtmsrWritesMsr : (regs 3 4 0xFFFBFFFF 0).pr = false ∧
    ((regs 3 4 0xFFFBFFFF 0).reg 3).getLsbD 18 = false := by decide

theorem witness_MfmsrReadsMsr : start.pr = false := by decide

theorem witness_RfiReturns : { start with srr1 := 0xFFFBFFFF }.pr = false ∧
    ({ start with srr1 := 0xFFFBFFFF } : State).srr1.getLsbD 18 = false := by decide

theorem witness_SettingWaitEnableIsRefused : (regs 3 4 0x00040000 0).pr = false ∧
    ((regs 3 4 0x00040000 0).reg 3).getLsbD 18 = true := by decide

theorem witness_PrivilegedInUserModeTraps : user.pr = true ∧ (22 : BitVec 10).getLsbD 4 = true := by decide

theorem witness_SystemCallThenReturn : (0x0002D000 : Word) &&& 0x0602FF34 = 0x0002D000 ∧
    (0xFFFFFFFC : Word).toNat % 4 = 0 := by decide

theorem witness_entries : IntType.program ∉ [IntType.criticalInput, .machineCheck, .watchdog, .debug] ∧
    IntType.watchdog ∈ [IntType.criticalInput, .watchdog, .debug] := by decide

theorem witness_MachineCheckEntry : { Pending.reset with mcRecoverable := true }.mcRecoverable = true ∧
    Pending.reset.mcRecoverable = false := by decide

/-- Every asynchronous type is taken from some state. -/
theorem witness_OnlyEnabledInterruptsAreTaken :
    let s := { start with msr := 0x00029200, dbcr0Idm := true }
    { s with pend := { s.pend with critInt := true } }.candidate = some .criticalInput ∧
    { s with pend := { s.pend with wd := true } }.candidate = some .watchdog ∧
    { s with pic := picOn }.candidate = some .externalInput ∧
    { s with pend := { s.pend with dec := true } }.candidate = some .decrementer ∧
    { s with pend := { s.pend with fit := true } }.candidate = some .fixedInterval ∧
    { s with pend := { s.pend with pm := true } }.candidate = some .performanceMonitor ∧
    { s with pend := { s.pend with mc := true } }.candidate = some .machineCheck ∧
    { s with pend := { s.pend with dbg := true } }.candidate = some .debug ∧
    (0x00004000 : Word) &&& 0x00029200 = 0 := by decide

theorem witness_HighestPriorityIsTaken :
    let s := { extState with pend := { Pending.reset with dec := true, pm := true } }
    s.config.intPriority = Config.defaultPriority ∧ s.candidate = some .externalInput ∧
      s.enabled .performanceMonitor = true ∧ s.pending .performanceMonitor = true := by decide

/-- Entry of a noncritical type; `mtmsr` sets EE again; a critical input is taken while EE = 0. -/
theorem witness_HandlerStartsWithExternalDisabled :
    IntType.externalInput ∉ [IntType.criticalInput, .machineCheck, .watchdog, .debug] ∧
    (start.msr.getLsbD 15 = false ∧
      nextIs (runWord (regs 3 4 0x00028000 0) 0x7C600124) (fun t => t.msr.getLsbD 15) = true) ∧
    (let s := { extState with msr := 0x00020000, pend := { Pending.reset with critInt := true } }
     s.msr.getLsbD 15 = false ∧
       boundary s = .interrupt .criticalInput { s with inputs := [] }) := by decide

theorem witness_IntOutputFollowsEligibleSources : Config.default.taskPriority = 0 ∧
    Config.default.inServiceMasks = false ∧ Pic.extInt Config.default picOn = true := by decide

/-- An edge-sensitive active-low source: the falling edge is latched, and a read of PIC_IACK clears it. -/
theorem witness_PendingFollowsRequestInputs :
    let s := { start with pic := Pic.reset.write (.eivpr 3) 0x00050033 }
    let t := s.applyEvent (.setPin (.ext 3) false)
    (s.pic.ext[3].edge = false ∧ (s.pic.vpr (.ext 3)).getLsbD 23 = false ∧
      (s.pic.vpr (.ext 3)).getLsbD 22 = false ∧ s.pic.ext[3].pin ≠ (s.pic.vpr (.ext 3)).getLsbD 23) ∧
    (t.pic.ext[3].edge = true ∧ t.config.iackAcknowledges = true ∧
      Pic.highest t.config t.pic = some (.ext 3)) := by decide

/-- Each kind of PIC event, at a source other than the one it is about, at that one, and at the acknowledged one. -/
theorem witness_EventsChangeTheirOwnCondition :
    let s := { start with pic := picOn }
    (∀ high, EnvEvent.setPin (.ext 11) true ≠ .setPin (.ext 0) high) ∧
    (∀ high, EnvEvent.setPin (.int 0) true ≠ .setPin (.int 63) high) ∧
    Pic.highest s.config s.pic = some (.ext 0) ∧
    (s.applyEvent .readIack).pic.inService (.ext 0) = true ∧
    ((s.applyEvent .readIack).applyEvent (.endOfService (.ext 0))).pic.inService (.ext 0) = false := by decide

theorem witness_IackReturnsHighestVector : ∃ s, s ∈ Pic.requests Config.default picOn := ⟨.ext 0, by decide⟩

theorem witness_InvariantAtReset : Config.default.resetPc.toNat % 4 = 0 := by decide

/-- A state in use: user mode, a stored word, vectors and a PIC source programmed. -/
def busy : State :=
  { (at1000 0x44000002).storeMem 0x2000 0xCAFEBABE with
      msr := 0x0602FF34, ivpr := 0xFFF80000, ivor := start.ivor.set 8 0x900, pic := picOn, inputs := [⟨[], false⟩] }

theorem witness_StepKeepsInvariant : busy.Inv ∧ nextIs (step busy) (fun t => t.msr == 0x00021200) = true := by
  refine ⟨⟨by decide, by decide, by decide, by decide, ?_, by decide, by decide, by decide, by decide, by decide, ?_⟩,
    by decide⟩
  · intro t; cases t <;> decide
  · intro src
    cases src with
    | ext n => revert n; decide
    | int n => revert n; decide

/-- User mode stays in user mode (an `addi`), and leaves it (`sc`). -/
theorem witness_UserModeIsConfined : user.pr = true ∧
    nextIs (runWord user 0x38630001) (fun t => t.pr) = true ∧
    nextIs (runWord user 0x44000002) (fun t => !t.pr) = true := by decide

theorem witness_OnlyTheseChangeTheMsr :
    nextIs (exec (.mtmsr 3) (regs 3 4 0x8000 0)) (fun t => t.msr != (regs 3 4 0x8000 0).msr) = true ∧
    nextIs (runWord user 0x44000002) (fun t => t.msr != user.msr) = true ∧
    nextIs (step extState) (fun t => t.msr != extState.msr) = true := by decide

theorem witness_OnlyTheseWriteUserRegisters :
    nextIs (exec (.rlwinm 3 3 0 0 31 true) start) (fun t => t.cr != start.cr) = true ∧
    nextIs (exec (.b 4 false true) start) (fun t => t.lr != start.lr) = true ∧
    nextIs (exec (.bclr 16 0 false) start) (fun t => t.ctr != start.ctr) = true ∧
    nextIs (exec (.mtspr 1 3) (regs 3 4 1 0)) (fun t => t.xer != start.xer) = true := by decide

theorem witness_DearIsWrittenOnlyByMtspr :
    nextIs (runWord (regs 3 4 9 0) 0x7C7D0BA6) (fun t => t.dear != start.dear) = true := by decide

theorem witness_OnlyTheTargetRegisterChanges : nextIs (exec (.addi 3 0 1) start) (fun _ => true) = true ∧
    destReg (.addi 3 0 1) ≠ some 4 := by decide

theorem witness_OnlyStwuWritesMemory : nextIs (exec .sc start) (fun _ => true) = true := by decide

end Sys2Proof.Tests
end

section
/-!
PROOFS. The parameters of R6 stand in `State.config`, which no step changes (log 3): every instruction's meaning keeps
the field, then the boundary does, then the step.
-/

namespace Sys2Proof.Machine

/-! ### The interrupts an instruction takes -/

@[simp] theorem privilegedProgram_config (s : State) : s.privilegedProgram.config = s.config :=
  takeInterrupt_config s _ _ _

@[simp] theorem systemCall_config (s : State) : s.systemCall.config = s.config :=
  takeInterrupt_config s _ _ _

/-! ### The instructions -/

/-- A word store changes memory or the PIC, never the parameters (R90, R249). -/
theorem storeWord_config {ea v : Word} {s t : State} (h : storeWord ea v s = .next t) : t.config = s.config := by
  obtain ⟨-, rfl⟩ | ⟨r, -, -, -, rfl⟩ := storeWord_next h
  · exact storeMem_config s ea v
  · rfl

theorem execRlwinm_config {rs ra : Reg} {sh mb me : Fin 32} {rc : Bool} {s t : State}
    (h : execRlwinm rs ra sh mb me rc s = .next t) : t.config = s.config := by
  obtain rfl := Host.Outcome.next.inj h
  cases rc <;> simp

theorem execStwu_config {rs ra : Reg} {d : BitVec 16} {s t : State} (h : execStwu rs ra d s = .next t) :
    t.config = s.config := by
  obtain ⟨-, -, u, hu, rfl⟩ := execStwu_next h
  simp [storeWord_config hu]

theorem execMtspr_config {n : BitVec 10} {rs : Reg} {s t : State} (h : execMtspr n rs s = .next t) :
    t.config = s.config := by
  obtain ⟨-, -, rfl⟩ | ⟨-, ⟨r, -, rfl⟩ | ⟨r, m, -, rfl⟩⟩ := execMtspr_next h <;> simp

theorem execMfspr_config {rt : Reg} {n : BitVec 10} {s t : State} (h : execMfspr rt n s = .next t) :
    t.config = s.config := by
  obtain ⟨-, -, rfl⟩ | ⟨-, v, rfl⟩ := execMfspr_next h <;> simp

theorem execMtmsr_config {rs : Reg} {s t : State} (h : execMtmsr rs s = .next t) : t.config = s.config := by
  obtain ⟨-, rfl⟩ | ⟨-, -, rfl⟩ := execMtmsr_next h <;> simp

theorem execMfmsr_config {rt : Reg} {s t : State} (h : execMfmsr rt s = .next t) : t.config = s.config := by
  obtain ⟨-, rfl⟩ | ⟨-, rfl⟩ := execMfmsr_next h <;> simp

theorem execRfi_config {s t : State} (h : execRfi s = .next t) : t.config = s.config := by
  obtain ⟨-, rfl⟩ | ⟨-, -, rfl⟩ := execRfi_next h <;> simp

/-- No instruction changes the parameters, whether it completes or traps. -/
theorem exec_config {i : Instr} {s t : State} (h : exec i s = .next t) : t.config = s.config := by
  cases i with
  | addi rt ra si => obtain rfl := Host.Outcome.next.inj h; simp
  | addis rt ra si => obtain rfl := Host.Outcome.next.inj h; simp
  | sc => obtain rfl := Host.Outcome.next.inj h; simp
  | b li aa lk => obtain rfl := Host.Outcome.next.inj h; simp
  | bclr bo bi lk => obtain rfl := Host.Outcome.next.inj h; simp
  | rfi => exact execRfi_config h
  | rlwinm rs ra sh mb me rc => exact execRlwinm_config h
  | ori rs ra ui => obtain rfl := Host.Outcome.next.inj h; simp
  | mfmsr rt => exact execMfmsr_config h
  | mtmsr rs => exact execMtmsr_config h
  | mfspr rt n => exact execMfspr_config h
  | mtspr n rs => exact execMtspr_config h
  | stwu rs ra d => exact execStwu_config h

/-! ### The boundary -/

/-- Events and the boundary's choice leave the parameters as they are. -/
theorem boundary_run_config {s t : State} (h : boundary s = .run t) : t.config = s.config := by
  obtain ⟨k, rfl⟩ := boundary_run h
  exact arrive_config s

theorem boundary_interrupt_config {s t : State} {a : AsyncInt} (h : boundary s = .interrupt a t) :
    t.config = s.config := by
  obtain ⟨-, k, rfl⟩ := boundary_interrupt h
  exact arrive_config s

@[simp] theorem takeAsync_config (s : State) (a : AsyncInt) : (s.takeAsync a).config = s.config :=
  takeInterrupt_config s _ _ _

/-! ### The step -/

/-- Settles O51: a step is an interrupt entry or one instruction, after a boundary, and each keeps the parameters. -/
theorem stepKeepsConfig : Obligations.StepKeepsConfig := by
  intro s t h
  obtain ⟨a, u, hb, rfl⟩ | ⟨u, w, i, hb, -, -, hx⟩ := step_next h
  · exact (takeAsync_config u a).trans (boundary_interrupt_config hb)
  · exact (exec_config hx).trans (boundary_run_config hb)

end Sys2Proof.Machine
end

section
/-!
PROOFS. What one instruction can do to the state, said once for the whole of `exec`.
-/

namespace Sys2Proof.Machine

/-- The ways an instruction completes or traps: `Effect s i t` if `i` may take `s` to `t`. -/
inductive Effect (s : State) : Instr → State → Prop where
  /-- A privileged form in user mode takes the Program interrupt (R172, R223). -/
  | trap {i : Instr} (hi : privileged i = true) (hs : s.pr = true) : Effect s i s.privilegedProgram
  /-- The target register receives a result (R140 to R143, R171, R174). -/
  | result {i : Instr} {r : Reg} (v : Word) (hr : destReg i = some r) : Effect s i (s.setReg r v).advance
  /-- `rlwinm.` also records its result in cr0 (R144). -/
  | record (rs ra : Reg) (sh mb me : Fin 32) :
    Effect s (.rlwinm rs ra sh mb me true)
      ((s.setReg ra (s.rlwinmResult rs sh mb me)).advance.recordCr0 (s.rlwinmResult rs sh mb me))
  | branch (li : BitVec 24) (aa lk : Bool) :
    Effect s (.b li aa lk) { s.link lk with pc := if aa then branchDisp li else s.pc + branchDisp li }
  | branchLr (bo : BitVec 5) (bi : Fin 32) (lk : Bool) :
    Effect s (.bclr bo bi lk) { s.link lk with
      ctr := s.ctrAfter bo, pc := if s.ctrOk bo && s.condOk bo bi then alignPc s.lr else s.nextPc }
  | call : Effect s .sc s.systemCall
  | ret (hs : s.pr = false) (hw : setsWe s.srr1 = false) : Effect s .rfi s.returnFromInterrupt
  | writeMsr {rs : Reg} (hs : s.pr = false) (hw : setsWe (s.reg rs) = false) :
    Effect s (.mtmsr rs) (s.writeMsr (s.reg rs)).advance
  | writeSpr {n : BitVec 10} {rs : Reg} {r : SprReg} (hp : (sprPrivileged n && s.pr) = false)
    (hn : sprModel n = .rw r) :
    Effect s (.mtspr n rs) (s.setSpr r (s.reg rs)).advance
  | writeMaskedSpr {n : BitVec 10} {rs : Reg} {r : SprReg} {m : Word}
    (hp : (sprPrivileged n && s.pr) = false) (hn : sprModel n = .masked r m) :
    Effect s (.mtspr n rs) (s.setSpr r (s.reg rs &&& m)).advance
  /-- `stwu` stores a word, to memory or to a PIC register, and updates its base (R160). -/
  | store {rs ra : Reg} {d : BitVec 16} {u : State} (hra : ra ≠ 0)
    (ha : isAligned (s.effectiveAddress ra d) = true)
    (hu : storeWord (s.effectiveAddress ra d) (s.reg rs) s = .next u) :
    Effect s (.stwu rs ra d) (u.setReg ra (s.effectiveAddress ra d)).advance

/-- An instruction that goes on does so in one of these ways. -/
theorem exec_effect {i : Instr} {s t : State} (h : exec i s = .next t) : Effect s i t := by
  cases i with
  | addi rt ra si => obtain rfl := Host.Outcome.next.inj h; exact .result _ rfl
  | addis rt ra si => obtain rfl := Host.Outcome.next.inj h; exact .result _ rfl
  | ori rs ra ui => obtain rfl := Host.Outcome.next.inj h; exact .result _ rfl
  | rlwinm rs ra sh mb me rc =>
    obtain rfl := Host.Outcome.next.inj h
    cases rc
    · exact .result _ rfl
    · exact .record rs ra sh mb me
  | b li aa lk => obtain rfl := Host.Outcome.next.inj h; exact .branch li aa lk
  | bclr bo bi lk => obtain rfl := Host.Outcome.next.inj h; exact .branchLr bo bi lk
  | sc => obtain rfl := Host.Outcome.next.inj h; exact .call
  | rfi =>
    obtain ⟨hs, rfl⟩ | ⟨hs, hw, rfl⟩ := execRfi_next h
    · exact .trap rfl hs
    · exact .ret hs hw
  | mfmsr rt =>
    obtain ⟨hs, rfl⟩ | ⟨-, rfl⟩ := execMfmsr_next h
    · exact .trap rfl hs
    · exact .result _ rfl
  | mtmsr rs =>
    obtain ⟨hs, rfl⟩ | ⟨hs, hw, rfl⟩ := execMtmsr_next h
    · exact .trap rfl hs
    · exact .writeMsr hs hw
  | mfspr rt n =>
    obtain ⟨hi, hs, rfl⟩ | ⟨-, v, rfl⟩ := execMfspr_next h
    · exact .trap hi hs
    · exact .result v rfl
  | mtspr n rs =>
    obtain ⟨hi, hs, rfl⟩ | ⟨hp, ⟨r, hn, rfl⟩ | ⟨r, m, hn, rfl⟩⟩ := execMtspr_next h
    · exact .trap hi hs
    · exact .writeSpr hp hn
    · exact .writeMaskedSpr hp hn
  | stwu rs ra d =>
    obtain ⟨hra, ha, u, hu, rfl⟩ := execStwu_next h
    exact .store hra ha hu

end Sys2Proof.Machine
end

section
/-!
PROOFS. The machine's invariant (O49, O50): each named operation keeps it, then every instruction, the boundary and the
step.
-/

namespace Sys2Proof.Machine

/-! ### Words under masks -/

theorem and_mask_right_comm (x m k : Word) : x &&& m &&& k = x &&& k &&& m := by ac_rfl

/-- Clearing more bits leaves a word inside a mask it was inside of. -/
theorem and_inside_of_inside {x k : Word} (h : x &&& k = x) (m : Word) : x &&& m &&& k = x &&& m := by
  rw [and_mask_right_comm, h]

/-- Clearing more bits leaves clear the bits that were. -/
theorem and_clear_of_clear {x k : Word} (h : x &&& k = 0) (m : Word) : x &&& m &&& k = 0 := by
  rw [and_mask_right_comm, h]
  exact BitVec.zero_and

theorem and_inside (x k : Word) : x &&& k &&& k = x &&& k := by rw [BitVec.and_assoc, BitVec.and_self]

theorem and_msrWeMask_of_not_setsWe {v : Word} (h : setsWe v = false) : v &&& msrWeMask = 0 := by
  simpa [setsWe] using h

/-! ### Instruction addresses -/

theorem low_bits_add {a b : Word} (ha : a.extractLsb' 0 2 = 0) (hb : b.extractLsb' 0 2 = 0) :
    (a + b).extractLsb' 0 2 = 0 := by
  rw [extractLsb'_low_eq_zero_iff] at *
  rw [BitVec.toNat_add]
  omega

theorem low_bits_alignPc (a : Word) : (alignPc a).extractLsb' 0 2 = 0 := by
  rw [extractLsb'_low_eq_zero_iff, toNat_alignPc]
  omega

theorem low_bits_branchDisp (li : BitVec 24) : (branchDisp li).extractLsb' 0 2 = 0 :=
  (extractLsb'_low_eq_zero_iff _).mpr (toNat_branchDisp_mod li)

theorem low_bits_vector (s : State) (t : IntType) : (s.vector t).extractLsb' 0 2 = 0 :=
  (extractLsb'_low_eq_zero_iff _).mpr (toNat_vector_mod s t)

namespace State.Inv

variable {s : State}

/-! ### Updates of one part of the state -/

/-- A new `pc`, and clearing MSR bits: what an interrupt entry and the environment's events do to the fields the
invariant speaks of. -/
theorem of_frame {t : State} (h : s.Inv) (hpc : t.pc.extractLsb' 0 2 = 0) (hmsr : ∃ m, t.msr = s.msr &&& m)
    (hivpr : t.ivpr = s.ivpr) (hivor : t.ivor = s.ivor) (hmem : t.mem = s.mem) (hstored : t.stored = s.stored)
    (hvpr : ∀ src, t.pic.vpr src = s.pic.vpr src) (hdest : ∀ src, t.pic.dest src = s.pic.dest src) : t.Inv := by
  obtain ⟨m, hm⟩ := hmsr
  exact {
    pcAligned := hpc
    msrReserved := hm ▸ and_inside_of_inside h.msrReserved m
    msrWe := hm ▸ and_clear_of_clear h.msrWe m
    ivprMasked := hivpr ▸ h.ivprMasked
    ivorMasked := fun u => ivorOf_congr hivor u ▸ h.ivorMasked u
    memCanonical := hmem ▸ h.memCanonical
    storedCanonical := hstored ▸ h.storedCanonical
    storedWritten := hmem ▸ hstored ▸ h.storedWritten
    eivprFields := fun n => hvpr (.ext n) ▸ h.eivprFields n
    iivprFields := fun n => hvpr (.int n) ▸ h.iivprFields n
    destFields := fun src => hdest src ▸ h.destFields src }

theorem setReg (h : s.Inv) (r : Reg) (v : Word) : (s.setReg r v).Inv := { h with }

theorem recordCr0 (h : s.Inv) (v : Word) : (s.recordCr0 v).Inv := { h with }

theorem link (h : s.Inv) (lk : Bool) : (s.link lk).Inv := by
  cases lk
  · exact h
  · exact { h with }

theorem jump (h : s.Inv) {a : Word} (ha : a.extractLsb' 0 2 = 0) : { s with pc := a }.Inv :=
  { h with pcAligned := ha }

theorem nextPc_aligned (h : s.Inv) : s.nextPc.extractLsb' 0 2 = 0 := low_bits_add h.pcAligned (by decide)

theorem advance (h : s.Inv) : s.advance.Inv := h.jump h.nextPc_aligned

/-- A value that leaves WE clear may be written to the MSR (R40, R244). -/
theorem writeMsr (h : s.Inv) {v : Word} (hv : setsWe v = false) : (s.writeMsr v).Inv :=
  { h with
    msrReserved := and_inside v msrWritable
    msrWe := and_clear_of_clear (and_msrWeMask_of_not_setsWe hv) msrWritable }

/-- A special register may be written, IVPR and the IVORs with a value inside their masks (R42, R43). -/
theorem setSpr (h : s.Inv) {r : SprReg} {v : Word} (hp : r = .ivpr → v &&& ivprMask = v)
    (hi : ∀ u, r = .ivor u → v &&& ivorMask = v) : (s.setSpr r v).Inv where
  pcAligned := by rw [setSpr_pc]; exact h.pcAligned
  msrReserved := by rw [setSpr_msr]; exact h.msrReserved
  msrWe := by rw [setSpr_msr]; exact h.msrWe
  ivprMasked := by
    change (s.setSpr r v).spr .ivpr &&& ivprMask = (s.setSpr r v).spr .ivpr
    rw [spr_setSpr]
    split
    · exact hp (Eq.symm ‹_›)
    · exact h.ivprMasked
  ivorMasked u := by
    change (s.setSpr r v).spr (.ivor u) &&& ivorMask = (s.setSpr r v).spr (.ivor u)
    rw [spr_setSpr]
    split
    · exact hi u (Eq.symm ‹_›)
    · exact h.ivorMasked u
  memCanonical := by rw [setSpr_mem]; exact h.memCanonical
  storedCanonical := by rw [setSpr_stored]; exact h.storedCanonical
  storedWritten := by rw [setSpr_stored, setSpr_mem]; exact h.storedWritten
  eivprFields := by rw [setSpr_pic]; exact h.eivprFields
  iivprFields := by rw [setSpr_pic]; exact h.iivprFields
  destFields := by rw [setSpr_pic]; exact h.destFields

/-- No plain row of R36 names IVPR or an IVOR. -/
theorem setSpr_of_rw (h : s.Inv) {n : BitVec 10} {r : SprReg} (hn : sprModel n = .rw r) (v : Word) :
    (s.setSpr r v).Inv := by
  have hm : respectsMasks (.rw r) = true := hn ▸ sprModel_respectsMasks n
  apply h.setSpr
  · rintro rfl; cases hm
  · rintro u rfl; cases hm

/-- A masked row of R36 that names IVPR or an IVOR gives it its own mask. -/
theorem setSpr_of_masked (h : s.Inv) {n : BitVec 10} {r : SprReg} {m : Word} (hn : sprModel n = .masked r m)
    (v : Word) : (s.setSpr r (v &&& m)).Inv := by
  have hm : respectsMasks (.masked r m) = true := hn ▸ sprModel_respectsMasks n
  apply h.setSpr
  · rintro rfl
    obtain rfl : m = ivprMask := eq_of_beq hm
    exact and_inside v _
  · rintro u rfl
    obtain rfl : m = ivorMask := eq_of_beq hm
    exact and_inside v _

/-! ### Stores -/

/-- Every byte a store records has the value the store gave it. -/
theorem storeMem (h : s.Inv) (a v : Word) : (s.storeMem a v).Inv :=
  { h with
    memCanonical := storeMem_wf s a v h.memCanonical
    storedCanonical := addrsWf_addWordAddrs s.stored a h.storedCanonical
    storedWritten := by
      intro x hx
      cases hb : isWordByte a x with
      | true =>
        obtain ⟨i, hi, rfl⟩ := (isWordByte_iff a x).mp hb
        rw [storeMem_readByte s a v i hi]
        rfl
      | false =>
        rw [storeMem_readByte_ne s a v x hb]
        exact h.storedWritten x (((mem_addWordAddrs _ _ _).mp hx).resolve_left (by simp [hb])) }

/-- A write to a PIC register keeps only its fields (R249). -/
theorem writePic (h : s.Inv) (r : PicReg) (v : Word) : { s with pic := s.pic.write r v }.Inv :=
  { h with
    eivprFields := by
      intro n
      cases r <;> simp only [write_vpr, h.eivprFields]
      split
      · exact and_inside v _
      · exact h.eivprFields n
    iivprFields := by
      intro n
      cases r <;> simp only [write_vpr, h.iivprFields]
      split
      · exact and_inside v _
      · exact h.iivprFields n
    destFields := by
      intro src
      simp only [write_dest]
      split
      · split
        · exact and_inside v _
        · exact h.destFields _
      · split
        · exact and_inside v _
        · exact h.destFields _
      · exact h.destFields src }

theorem storeWord (h : s.Inv) {ea v : Word} {u : State} (hu : storeWord ea v s = .next u) : u.Inv := by
  obtain ⟨-, rfl⟩ | ⟨r, -, -, -, rfl⟩ := storeWord_next hu
  · exact h.storeMem ea v
  · exact h.writePic r v

/-! ### Interrupts and returning from one -/

theorem takeInterrupt (h : s.Inv) (t : IntType) (ret : Word) (e : Option Word) : (s.takeInterrupt t ret e).Inv := by
  obtain ⟨m, -, hm⟩ := takeInterrupt_msr s t ret e
  exact h.of_frame (takeInterrupt_pc s t ret e ▸ low_bits_vector s t) ⟨m, hm⟩ (takeInterrupt_ivpr ..)
    (takeInterrupt_ivor ..) (takeInterrupt_mem ..) (takeInterrupt_stored ..)
    (fun _ => by rw [takeInterrupt_pic]) (fun _ => by rw [takeInterrupt_pic])

theorem returnFromInterrupt (h : s.Inv) (hw : setsWe s.srr1 = false) : s.returnFromInterrupt.Inv :=
  (h.writeMsr hw).jump (low_bits_alignPc s.srr0)

/-! ### Instructions -/

theorem branch (h : s.Inv) (li : BitVec 24) (aa lk : Bool) :
    { s.link lk with pc := if aa then branchDisp li else s.pc + branchDisp li }.Inv := by
  apply (h.link lk).jump
  cases aa
  · exact low_bits_add h.pcAligned (low_bits_branchDisp li)
  · exact low_bits_branchDisp li

theorem branchLr (h : s.Inv) (lk taken : Bool) (c : Word) :
    { s.link lk with ctr := c, pc := if taken then alignPc s.lr else s.nextPc }.Inv := by
  have hpc : (if taken then alignPc s.lr else s.nextPc).extractLsb' 0 2 = 0 := by
    cases taken
    · exact h.nextPc_aligned
    · exact low_bits_alignPc s.lr
  exact { h.link lk with pcAligned := hpc }

/-- Every instruction keeps the invariant, whether it completes or traps. -/
theorem effect (h : s.Inv) {i : Instr} {t : State} (ht : Effect s i t) : t.Inv := by
  cases ht with
  | trap hi hs => exact h.takeInterrupt ..
  | result v hr => exact (h.setReg _ v).advance
  | record rs ra sh mb me => exact (h.setReg ra _).advance.recordCr0 _
  | branch li aa lk => exact h.branch li aa lk
  | branchLr bo bi lk => exact h.branchLr lk _ _
  | call => exact h.takeInterrupt ..
  | ret hs hw => exact h.returnFromInterrupt hw
  | writeMsr hs hw => exact (h.writeMsr hw).advance
  | writeSpr hp hn => exact (h.setSpr_of_rw hn _).advance
  | writeMaskedSpr hp hn => exact (h.setSpr_of_masked hn _).advance
  | store hra ha hu => exact ((h.storeWord hu).setReg _ _).advance

/-! ### The boundary -/

theorem arrive (h : s.Inv) : s.arrive.Inv :=
  h.of_frame (arrive_pc s ▸ h.pcAligned) ⟨msrWritable, by rw [arrive_msr, h.msrReserved]⟩ (arrive_ivpr s)
    (arrive_ivor s) (arrive_mem s) (arrive_stored s) (arrive_vpr s) (arrive_dest s)

theorem setFreeIx (h : s.Inv) (k : Nat) : { s with freeIx := k }.Inv := { h with }

theorem boundary_run (h : s.Inv) {t : State} (hb : boundary s = .run t) : t.Inv := by
  obtain ⟨k, rfl⟩ := Machine.boundary_run hb
  exact h.arrive.setFreeIx k

theorem boundary_interrupt (h : s.Inv) {t : State} {a : AsyncInt} (hb : boundary s = .interrupt a t) : t.Inv := by
  obtain ⟨-, k, rfl⟩ := Machine.boundary_interrupt hb
  exact h.arrive.setFreeIx k

/-! ### Reset -/

theorem resetWith {c : Config} (hc : c.resetPc.toNat % 4 = 0) : (State.resetWith c).Inv where
  pcAligned := (extractLsb'_low_eq_zero_iff _).mpr hc
  msrReserved := BitVec.zero_and
  msrWe := BitVec.zero_and
  ivprMasked := BitVec.zero_and
  ivorMasked t := by simp [State.ivorOf, State.resetWith]
  memCanonical := rfl
  storedCanonical := rfl
  storedWritten := by simp [State.resetWith]
  eivprFields n := by
    have hx : (State.resetWith c).pic.vpr (.ext n) = ExtSource.reset.vpr := by
      simp [Pic.vpr, State.resetWith, Pic.reset]
    rw [hx]; decide
  iivprFields n := by
    have hx : (State.resetWith c).pic.vpr (.int n) = IntSource.reset.vpr := by
      simp [Pic.vpr, State.resetWith, Pic.reset]
    rw [hx]; decide
  destFields src := by
    have hx : (State.resetWith c).pic.dest src = 1 := by
      cases src <;> simp [Pic.dest, State.resetWith, Pic.reset, ExtSource.reset, IntSource.reset]
    rw [hx]; decide

end State.Inv

/-- Settles O50: a step is an interrupt entry or one instruction, after a boundary, and each keeps the invariant. -/
theorem stepKeepsInvariant : Obligations.StepKeepsInvariant := by
  intro s t h ht
  obtain ⟨a, u, hb, rfl⟩ | ⟨u, w, i, hb, -, -, hx⟩ := step_next ht
  · exact (h.boundary_interrupt hb).takeInterrupt ..
  · exact (h.boundary_run hb).effect (exec_effect hx)

/-- Settles O49: the stated reset values are inside their masks, and nothing is in memory or has been stored. -/
theorem invariantAtReset : Obligations.InvariantAtReset :=
  ⟨fun _ hc => State.Inv.resetWith hc, State.Inv.resetWith (by decide)⟩

end Sys2Proof.Machine
end

section
/-!
PROOFS. Who writes the MSR (O53) and the user-level registers CR, LR, CTR, XER and USPRG0 (O54).
-/

namespace Sys2Proof.Machine

/-! ### The MSR -/

theorem storeWord_msr {ea v : Word} {s t : State} (h : storeWord ea v s = .next t) : t.msr = s.msr := by
  obtain ⟨-, rfl⟩ | ⟨r, -, -, -, rfl⟩ := storeWord_next h <;> rfl

/-- The instructions that may change the MSR in a state: `mtmsr`, `rfi`, `sc`, and a privileged one in user mode (R37,
R223). -/
def MayWriteMsr (s : State) (i : Instr) : Prop :=
  (∃ r, i = .mtmsr r) ∨ i = .rfi ∨ i = .sc ∨ (privileged i = true ∧ s.pr = true)

theorem Effect.msr {s t : State} {i : Instr} (h : Effect s i t) : t.msr = s.msr ∨ MayWriteMsr s i := by
  cases h with
  | trap hi hs => exact .inr (.inr (.inr (.inr ⟨hi, hs⟩)))
  | result v hr => exact .inl rfl
  | record rs ra sh mb me => exact .inl rfl
  | branch li aa lk => exact .inl (link_msr s lk)
  | branchLr bo bi lk => exact .inl (link_msr s lk)
  | call => exact .inr (.inr (.inr (.inl rfl)))
  | ret hs hw => exact .inr (.inr (.inl rfl))
  | writeMsr hs hw => exact .inr (.inl ⟨_, rfl⟩)
  | writeSpr hp hn => exact .inl (setSpr_msr s _ _)
  | writeMaskedSpr hp hn => exact .inl (setSpr_msr s _ _)
  | store hra ha hu => exact .inl (by simpa using storeWord_msr hu)

theorem mayWriteMsr_of_exec {i : Instr} {s t : State} (h : exec i s = .next t) (hne : t.msr ≠ s.msr) :
    MayWriteMsr s i :=
  (exec_effect h).msr.resolve_left hne

theorem boundary_run_pr {s t : State} (h : boundary s = .run t) : t.pr = s.pr := by
  simp only [State.pr, boundary_run_msr h]

/-- Settles O53: an instruction changes the MSR in one of its four ways, and a step's boundary leaves the MSR, so the
mode too, to the instruction. -/
theorem onlyTheseChangeTheMsr : Obligations.OnlyTheseChangeTheMsr := by
  refine ⟨fun i s t h hne => mayWriteMsr_of_exec h hne, fun s t h hne => ?_⟩
  obtain ⟨a, u, hb, -⟩ | ⟨u, w, i, hb, hw, hi, hx⟩ := step_next h
  · exact .inl ⟨a, u, hb⟩
  · refine .inr ⟨u, w, i, hb, hw, hi, ?_⟩
    rw [← boundary_run_msr hb] at hne
    rw [← boundary_run_pr hb]
    exact mayWriteMsr_of_exec hx hne

/-! ### CR, LR, CTR, XER and USPRG0 -/

/-- The user-level registers are the same in both states. -/
structure SameUserRegs (s t : State) : Prop where
  cr : t.cr = s.cr
  lr : t.lr = s.lr
  ctr : t.ctr = s.ctr
  xer : t.xer = s.xer
  usprg0 : t.usprg0 = s.usprg0

/-- An instruction that takes `s` to `t` has written no user-level register that is not its own (R26 to R29, R36). -/
structure WritesOwnUserRegs (s : State) (i : Instr) (t : State) : Prop where
  cr : t.cr ≠ s.cr → (∃ rs ra sh mb me, i = .rlwinm rs ra sh mb me true) ∧
    t.cr.extractLsb' 0 28 = s.cr.extractLsb' 0 28
  lr : t.lr ≠ s.lr → (∃ li aa, i = .b li aa true) ∨ (∃ bo bi, i = .bclr bo bi true) ∨ ∃ rs, i = .mtspr 8 rs
  ctr : t.ctr ≠ s.ctr → (∃ bo bi lk, i = .bclr bo bi lk ∧ bo.getLsbD 2 = false) ∨ ∃ rs, i = .mtspr 9 rs
  xer : t.xer ≠ s.xer → ∃ rs, i = .mtspr 1 rs
  usprg0 : t.usprg0 = s.usprg0

theorem SameUserRegs.writesOwn {s t : State} (h : SameUserRegs s t) (i : Instr) : WritesOwnUserRegs s i t where
  cr k := absurd h.cr k
  lr k := absurd h.lr k
  ctr k := absurd h.ctr k
  xer k := absurd h.xer k
  usprg0 := h.usprg0

theorem WritesOwnUserRegs.advance {s t : State} {i : Instr} (h : WritesOwnUserRegs s i t) :
    WritesOwnUserRegs s i t.advance := { h with }

theorem setReg_advance_sameUserRegs (s : State) (r : Reg) (v : Word) : SameUserRegs s (s.setReg r v).advance :=
  ⟨rfl, rfl, rfl, rfl, rfl⟩

theorem SameUserRegs.trans {s u t : State} (h : SameUserRegs s u) (k : SameUserRegs u t) : SameUserRegs s t :=
  ⟨k.cr.trans h.cr, k.lr.trans h.lr, k.ctr.trans h.ctr, k.xer.trans h.xer, k.usprg0.trans h.usprg0⟩

theorem writeMsr_sameUserRegs (s : State) (v : Word) : SameUserRegs s (s.writeMsr v) := ⟨rfl, rfl, rfl, rfl, rfl⟩

theorem returnFromInterrupt_sameUserRegs (s : State) : SameUserRegs s s.returnFromInterrupt :=
  ⟨rfl, rfl, rfl, rfl, rfl⟩

theorem takeInterrupt_sameUserRegs (s : State) (t : IntType) (ret : Word) (e : Option Word) :
    SameUserRegs s (s.takeInterrupt t ret e) where
  cr := takeInterrupt_cr s t ret e
  lr := takeInterrupt_lr s t ret e
  ctr := takeInterrupt_ctr s t ret e
  xer := takeInterrupt_xer s t ret e
  usprg0 := takeInterrupt_usprg0 s t ret e

theorem storeWord_sameUserRegs {ea v : Word} {s t : State} (h : storeWord ea v s = .next t) : SameUserRegs s t := by
  obtain ⟨-, rfl⟩ | ⟨r, -, -, -, rfl⟩ := storeWord_next h <;> exact ⟨rfl, rfl, rfl, rfl, rfl⟩

/-- A write to any other special register leaves the user-level ones. -/
theorem setSpr_sameUserRegs (s : State) {r : SprReg} (v : Word) (hl : r ≠ .lr) (hc : r ≠ .ctr) (hx : r ≠ .xer) :
    SameUserRegs s (s.setSpr r v) where
  cr := setSpr_cr s r v
  lr := (spr_setSpr s r .lr v).trans (if_neg hl.symm)
  ctr := (spr_setSpr s r .ctr v).trans (if_neg hc.symm)
  xer := (spr_setSpr s r .xer v).trans (if_neg hx.symm)
  usprg0 := by cases r <;> rfl

/-- Recording a result in cr0 keeps `CR[27:0]` (R144). -/
theorem recordCr0_low (s : State) (v : Word) : (s.recordCr0 v).cr.extractLsb' 0 28 = s.cr.extractLsb' 0 28 := by
  obtain ⟨-, -, -, -, hlow⟩ := recordCr0_bits s v
  apply BitVec.eq_of_getLsbD_eq
  intro k hk
  simp only [BitVec.getLsbD_extractLsb', hk, Nat.zero_add, hlow]

/-- Only a linking branch changes LR (R150, R151). -/
theorem lk_of_link_lr_ne {s : State} {lk : Bool} (h : (s.link lk).lr ≠ s.lr) : lk = true := by
  cases lk with
  | false => exact absurd rfl h
  | true => rfl

/-- Only a BO with `BO[2] = 0` decrements the CTR (R151). -/
theorem bo2_of_ctrAfter_ne {s : State} {bo : BitVec 5} (h : s.ctrAfter bo ≠ s.ctr) : bo.getLsbD 2 = false := by
  cases hb : bo.getLsbD 2 with
  | false => rfl
  | true => exact absurd (by simp [State.ctrAfter, boDecrements, hb]) h

/-- The numbers of LR, CTR and XER in R36. -/
theorem sprModel_user_numbers {n : BitVec 10} :
    (sprModel n = .rw .lr → n = 8) ∧ (sprModel n = .rw .ctr → n = 9) ∧ (sprModel n = .rw .xer → n = 1) := by
  refine ⟨fun h => ?_, fun h => ?_, fun h => ?_⟩
  all_goals
    obtain ⟨r, hr, hn, hm⟩ := sprModel_row h (by decide)
    obtain ⟨hl, hc, hx, -⟩ := sprTable_user_numbers r hr
  · exact BitVec.eq_of_toNat_eq (hn.symm.trans (hl hm))
  · exact BitVec.eq_of_toNat_eq (hn.symm.trans (hc hm))
  · exact BitVec.eq_of_toNat_eq (hn.symm.trans (hx hm))

theorem setSpr_of_rw_writesOwn (s : State) {n : BitVec 10} {r : SprReg} (hn : sprModel n = .rw r) (rs : Reg)
    (v : Word) : WritesOwnUserRegs s (.mtspr n rs) (s.setSpr r v) := by
  obtain ⟨hl, hc, hx⟩ := sprModel_user_numbers (n := n)
  by_cases rl : r = .lr
  · subst rl
    obtain rfl := hl hn
    exact ⟨(absurd rfl ·), fun _ => .inr (.inr ⟨rs, rfl⟩), (absurd rfl ·), (absurd rfl ·), rfl⟩
  by_cases rc : r = .ctr
  · subst rc
    obtain rfl := hc hn
    exact ⟨(absurd rfl ·), (absurd rfl ·), fun _ => .inr ⟨rs, rfl⟩, (absurd rfl ·), rfl⟩
  by_cases rx : r = .xer
  · subst rx
    obtain rfl := hx hn
    exact ⟨(absurd rfl ·), (absurd rfl ·), (absurd rfl ·), fun _ => ⟨rs, rfl⟩, rfl⟩
  exact (setSpr_sameUserRegs s v rl rc rx).writesOwn _

/-- No masked row of R36 names LR, CTR or XER. -/
theorem setSpr_of_masked_sameUserRegs (s : State) {n : BitVec 10} {r : SprReg} {m : Word}
    (hn : sprModel n = .masked r m) (v : Word) : SameUserRegs s (s.setSpr r v) := by
  have hm : respectsMasks (.masked r m) = true := hn ▸ sprModel_respectsMasks n
  apply setSpr_sameUserRegs
  all_goals rintro rfl; cases hm

theorem Effect.writesOwnUserRegs {s t : State} {i : Instr} (h : Effect s i t) : WritesOwnUserRegs s i t := by
  cases h with
  | trap hi hs => exact (takeInterrupt_sameUserRegs ..).writesOwn _
  | result v hr => exact (setReg_advance_sameUserRegs s _ v).writesOwn _
  | record rs ra sh mb me =>
    exact ⟨fun _ => ⟨⟨rs, ra, sh, mb, me, rfl⟩, recordCr0_low ..⟩, (absurd rfl ·), (absurd rfl ·), (absurd rfl ·),
      rfl⟩
  | branch li aa lk =>
    exact ⟨(absurd (link_cr s lk) ·), fun k => .inl ⟨li, aa, by rw [lk_of_link_lr_ne k]⟩,
      (absurd (link_ctr s lk) ·), (absurd (link_xer s lk) ·), link_usprg0 s lk⟩
  | branchLr bo bi lk =>
    exact ⟨(absurd (link_cr s lk) ·), fun k => .inr (.inl ⟨bo, bi, by rw [lk_of_link_lr_ne k]⟩),
      fun k => .inl ⟨bo, bi, lk, rfl, bo2_of_ctrAfter_ne k⟩, (absurd (link_xer s lk) ·), link_usprg0 s lk⟩
  | call => exact (takeInterrupt_sameUserRegs ..).writesOwn _
  | ret hs hw => exact (returnFromInterrupt_sameUserRegs s).writesOwn _
  | writeMsr hs hw => exact ((writeMsr_sameUserRegs s _).writesOwn _).advance
  | writeSpr hp hn => exact (setSpr_of_rw_writesOwn s hn _ _).advance
  | writeMaskedSpr hp hn => exact ((setSpr_of_masked_sameUserRegs s hn _).writesOwn _).advance
  | store hra ha hu => exact ((storeWord_sameUserRegs hu).trans (setReg_advance_sameUserRegs ..)).writesOwn _

/-- Settles O54: every effect an instruction can have leaves the registers that are not its own. -/
theorem onlyTheseWriteUserRegisters : Obligations.OnlyTheseWriteUserRegisters := by
  intro i s t h
  obtain ⟨hcr, hlr, hctr, hxer, hus⟩ := (exec_effect h).writesOwnUserRegs
  exact ⟨hcr, hlr, hctr, hxer, hus⟩

end Sys2Proof.Machine
end

section
/-!
PROOFS. Each event of the environment changes its own condition (O59).
-/

namespace Sys2Proof.Machine

/-- The events that go to the PIC: a driven input, a read of PIC_IACK, an end of service (R250, R252). -/
def IsPicEvent (e : EnvEvent) : Prop :=
  e = .readIack ∨ ∃ src, e = .endOfService src ∨ ∃ high, e = .setPin src high

/-! ### The inputs of the sources -/

theorem setPin_ext_pin (p : Pic) (high : Bool) {src : Source} {n : Fin 12} (h : src ≠ .ext n) :
    (p.setPin high src).ext[n].pin = p.ext[n].pin := by
  cases src with
  | int m => rfl
  | ext m =>
    have hn : n ≠ m := fun k => h (k ▸ rfl)
    simp only [Pic.setPin, ext_set_eq, if_neg hn]

theorem setPin_int_pin (p : Pic) (high : Bool) {src : Source} {n : Fin 64} (h : src ≠ .int n) :
    (p.setPin high src).int[n].pin = p.int[n].pin := by
  cases src with
  | ext m => rfl
  | int m =>
    have hn : n ≠ m := fun k => h (k ▸ rfl)
    simp only [Pic.setPin, int_set_eq, if_neg hn]

theorem endService_ext_pin (p : Pic) (src : Source) (n : Fin 12) : (p.endService src).ext[n].pin = p.ext[n].pin := by
  cases src with
  | int m => rfl
  | ext m =>
    simp only [Pic.endService, ext_set_eq]
    split
    · subst n; rfl
    · rfl

theorem endService_int_pin (p : Pic) (src : Source) (n : Fin 64) : (p.endService src).int[n].pin = p.int[n].pin := by
  cases src with
  | ext m => rfl
  | int m =>
    simp only [Pic.endService, int_set_eq]
    split
    · subst n; rfl
    · rfl

/-- No event drives an external input but the one it names. -/
theorem applyEvent_ext_pin (s : State) {e : EnvEvent} {n : Fin 12} (h : ∀ high, e ≠ .setPin (.ext n) high) :
    (s.applyEvent e).pic.ext[n].pin = s.pic.ext[n].pin := by
  cases e with
  | setPin src high => exact setPin_ext_pin s.pic high fun k => h high (k ▸ rfl)
  | readIack => exact (readIack_pins s.config s.pic).1 n
  | endOfService src => exact endService_ext_pin s.pic src n
  | _ => rfl

/-- No event drives an internal input but the one it names. -/
theorem applyEvent_int_pin (s : State) {e : EnvEvent} {n : Fin 64} (h : ∀ high, e ≠ .setPin (.int n) high) :
    (s.applyEvent e).pic.int[n].pin = s.pic.int[n].pin := by
  cases e with
  | setPin src high => exact setPin_int_pin s.pic high fun k => h high (k ▸ rfl)
  | readIack => exact (readIack_pins s.config s.pic).2 n
  | endOfService src => exact endService_int_pin s.pic src n
  | _ => rfl

/-! ### Service and PIC_IACK -/

/-- Service begins at a read of PIC_IACK that acknowledges the source, and ends at an end of service that names it
(R252). -/
theorem applyEvent_inService_iff (s : State) (e : EnvEvent) (q : Source) :
    (s.applyEvent e).pic.inService q = true ↔ e ≠ .endOfService q ∧ (s.pic.inService q = true ∨
      (e = .readIack ∧ s.config.iackAcknowledges = true ∧ Pic.highest s.config s.pic = some q)) := by
  cases e with
  | setPin src high => simp [State.applyEvent, setPin_inService]
  | readIack => simp [State.applyEvent, readIack_inService, or_comm]
  | endOfService src => simp [State.applyEvent, endService_inService]
  | _ => simp [State.applyEvent]

theorem applyEvent_iack (s : State) (e : EnvEvent) :
    (s.applyEvent e).pic.iack = if e = .readIack then (Pic.readIack s.config s.pic).1 else s.pic.iack := by
  cases e with
  | setPin src high => cases src <;> rfl
  | endOfService src => cases src <;> rfl
  | _ => rfl

/-- A PIC event changes the PIC alone. -/
theorem applyEvent_pic_alone (s : State) {e : EnvEvent} (h : IsPicEvent e) :
    s.applyEvent e = { s with pic := (s.applyEvent e).pic } := by
  obtain rfl | ⟨src, rfl | ⟨high, rfl⟩⟩ := h <;> rfl

/-- Settles O59: the other events are their one update; a PIC event is followed register by register. -/
theorem eventsChangeTheirOwnCondition : Obligations.EventsChangeTheirOwnCondition :=
  ⟨fun _ _ _ => ⟨rfl, rfl, rfl, rfl, rfl, rfl, rfl⟩, fun s e h =>
    ⟨applyEvent_pic_alone s h, fun q => ⟨applyEvent_vpr s e q, applyEvent_dest s e q⟩, applyEvent_inService_iff s e,
      fun _ => applyEvent_ext_pin s, fun _ => applyEvent_int_pin s, applyEvent_iack s e⟩⟩

end Sys2Proof.Machine
end

section
/-!
PROOFS. The SPR numbers with a meaning, and the registers they name (O22, O23): no number has two rows in R36, so a
number is treated as its one row says.
-/

namespace Sys2Proof.Machine

theorem sprTable_nums_nodup : (sprTable.map SprRow.num).Nodup := by decide

/-- A row of the table is the row of its number. -/
theorem sprRow_of_mem {r : SprRow} {n : BitVec 10} (hr : r ∈ sprTable) (hn : r.num = n.toNat) :
    sprRow n = some r := by
  cases h : sprRow n with
  | none => exact absurd hn (by simpa using List.find?_eq_none.mp h r hr)
  | some q =>
    obtain ⟨hq, hqn⟩ := sprRow_some h
    rw [List.inj_on_of_nodup_map sprTable_nums_nodup hq hr (hqn.trans hn.symm)]

/-- The numbers of the rows whose treatment passes a test. -/
def sprNumbers (f : SprModel → Bool) : List Nat := (sprTable.filter fun r => f r.model).map SprRow.num

/-- A test no unlisted number passes holds of the numbers whose rows pass it. -/
theorem sprModel_passes_iff {f : SprModel → Bool} (hf : f .refuse = false) (n : BitVec 10) :
    f (sprModel n) = true ↔ n.toNat ∈ sprNumbers f := by
  simp only [sprNumbers, List.mem_map, List.mem_filter]
  constructor
  · intro h
    obtain ⟨r, hr, hn, hm⟩ := sprModel_ne_refuse (n := n) (fun e => by simp [e, hf] at h)
    exact ⟨r, ⟨hr, hm ▸ h⟩, hn⟩
  · rintro ⟨r, ⟨hr, h⟩, hn⟩
    simpa only [sprModel, sprRow_of_mem hr hn] using h

/-- The numbers `mfspr` reads: SPR_ADMITTED of R36. -/
theorem sprNumbers_readable : sprNumbers SprModel.readable =
    [1, 8, 9, 26, 27, 58, 59, 61, 62, 63] ++ List.range' 260 4 ++ List.range' 272 8 ++ [286, 287] ++
      List.range' 400 16 ++ List.range' 528 4 ++ [570, 571] := by
  decide

/-- The numbers `mtspr` writes are those less the read-only ones. -/
theorem sprNumbers_writable : sprNumbers SprModel.writable =
    (sprNumbers SprModel.readable).filter (fun k => k ∉ [260, 261, 262, 263, 286, 287]) := by
  decide

/-- Settles O22: the numbers of the table's rows that `mfspr` reads and that `mtspr` writes are the listed ones. -/
theorem admittedSprNumbers : Obligations.AdmittedSprNumbers := by
  intro n
  rw [sprModel_passes_iff (f := SprModel.writable) rfl, sprModel_passes_iff (f := SprModel.readable) rfl,
    sprNumbers_writable]
  refine ⟨?_, by simp only [List.mem_filter, decide_eq_true_eq]⟩
  rw [sprNumbers_readable]
  simp only [List.mem_append, List.mem_range'_1, List.mem_cons, List.not_mem_nil, or_false]
  omega

/-- Settles O23: the rows of R36 under the stated numbers, and the state's field each register is. -/
theorem sprNumbersNameRegisters : Obligations.SprNumbersNameRegisters :=
  ⟨by decide, by decide, by decide, by decide, by decide, by decide, by decide, by decide, by decide, by decide,
    by decide, by decide, by decide, by decide, by decide, by decide, by decide, fun _ =>
    ⟨rfl, rfl, rfl, rfl, rfl, rfl, rfl, rfl, rfl, rfl, rfl, rfl, fun _ => rfl, fun _ => rfl⟩⟩

end Sys2Proof.Machine
end

section
/-!
PROOFS. Memory and the fetch: the word of four bytes (O21), the fetch that stops the run (O9) and the one that hands an
instruction to the step (O7), and what leaves memory and the PIC alone (O57).
-/

namespace Sys2Proof.Machine

/-! ### The word of four bytes -/

theorem byteAddr_zero (a : Word) : byteAddr a 0 = a.toNat := by simp [byteAddr]

/-- Settles O21: byte `i` of a written word lies at its `byteAddr`, which for the first is the address itself. -/
theorem memoryWordIsBigEndian : Obligations.MemoryWordIsBigEndian := by
  intro m a v
  have h0 := readByte_writeWord m a v 0 (by decide)
  rw [byteAddr_zero] at h0
  exact ⟨readWord_writeWord m a v, h0, readByte_writeWord m a v 1 (by decide), readByte_writeWord m a v 2 (by decide),
    readByte_writeWord m a v 3 (by decide)⟩

/-- A word has its value when its four bytes have theirs. -/
theorem readWord_of_bytes {m : Memory} {a : Word} {b0 b1 b2 b3 : Byte}
    (h0 : Memory.readByte m (byteAddr a 0) = some b0) (h1 : Memory.readByte m (byteAddr a 1) = some b1)
    (h2 : Memory.readByte m (byteAddr a 2) = some b2) (h3 : Memory.readByte m (byteAddr a 3) = some b3) :
    Memory.readWord m a = some (wordOfBytes b0 b1 b2 b3) := by
  simp only [Memory.readWord, h0, h1, h2, h3]

/-- A word with a byte that has no value has none. -/
theorem readWord_of_unwritten {m : Memory} {a : Word} {k : Nat} (hk : k < 4)
    (h : Memory.readByte m (byteAddr a k) = none) : Memory.readWord m a = none := by
  cases hw : Memory.readWord m a with
  | none => rfl
  | some w =>
    obtain ⟨b0, b1, b2, b3, h0, h1, h2, h3, -⟩ := readWord_some hw
    obtain rfl | rfl | rfl | rfl : k = 0 ∨ k = 1 ∨ k = 2 ∨ k = 3 := by omega
    · cases h.symm.trans h0
    · cases h.symm.trans h1
    · cases h.symm.trans h2
    · cases h.symm.trans h3

/-- Four bytes that decode are those of a word that decodes. -/
theorem decode_of_decodeBytes {b0 b1 b2 b3 : Byte} {i : Instr} (h : decodeBytes [b0, b1, b2, b3] = .ok (i, [])) :
    decode (wordOfBytes b0 b1 b2 b3) = .ok i := by
  cases hd : decode (wordOfBytes b0 b1 b2 b3) with
  | error e => simp [decodeBytes, hd] at h
  | ok j => simpa [decodeBytes, hd] using h

/-! ### The fetch -/

theorem fetchesModified_iff (s : State) : s.fetchesModified = true ↔ ∃ k < 4, byteAddr s.pc k ∈ s.stored := by
  simp only [State.fetchesModified, List.any_eq_true, isWordByte_iff]
  constructor
  · rintro ⟨x, hx, k, hk, rfl⟩
    exact ⟨k, hk, hx⟩
  · rintro ⟨k, hk, hx⟩
    exact ⟨_, hx, k, hk, rfl⟩

theorem not_fetchesModified_of_not_mem {s : State} (h : ∀ k < 4, byteAddr s.pc k ∉ s.stored) :
    s.fetchesModified = false := by
  rw [← Bool.not_eq_true, fetchesModified_iff]
  rintro ⟨k, hk, hx⟩
  exact h k hk hx

theorem fetch_outside {s : State} (h : isMemWord s.config s.pc = false) :
    fetch s = .refused (.fetchOutsideMemory s.pc) := by
  simp [fetch, h]

theorem fetch_modified {s : State} (hm : isMemWord s.config s.pc = true) (hs : s.fetchesModified = true) :
    fetch s = .refused (.fetchOfModifiedCode s.pc) := by
  simp [fetch, hm, hs]

theorem fetch_unwritten {s : State} (hm : isMemWord s.config s.pc = true) (hs : s.fetchesModified = false)
    (hw : Memory.readWord s.mem s.pc = none) : fetch s = .fault (.unwrittenByte s.pc) := by
  simp [fetch, hm, hs, hw]

theorem runInstruction_of_refused {s : State} {r : Refusal} (h : fetch s = .refused r) :
    runInstruction s = .refused r := by
  simp only [runInstruction, h]

theorem runInstruction_of_fault {s : State} {f : Fault} (h : fetch s = .fault f) : runInstruction s = .fault f := by
  simp only [runInstruction, h]

/-- Settles O9: each ground stops the fetch under its name, and a fetch that stops stops the run. -/
theorem fetchStops : Obligations.FetchStops := by
  refine fun s => ⟨fun hm => ?_, fun hm hs => ?_, fun hm hs ⟨k, hk, hb⟩ => ?_⟩
  · exact runInstruction_of_refused (fetch_outside hm)
  · exact runInstruction_of_refused (fetch_modified hm ((fetchesModified_iff s).mpr hs))
  · exact runInstruction_of_fault
      (fetch_unwritten hm (not_fetchesModified_of_not_mem hs) (readWord_of_unwritten hk hb))

theorem step_of_boundary_run {s t : State} (h : boundary s = .run t) : step s = runInstruction t := by
  simp only [step, h]

/-- Settles O7: the four bytes are the word the fetch gives, which decodes as they do; without an entry in `inputs` the
boundary's state is the one before it. -/
theorem stepRunsDecodedInstruction : Obligations.StepRunsDecodedInstruction := by
  refine ⟨fun s t i b0 b1 b2 b3 hb hm hs h0 h1 h2 h3 hd => ?_, fun s hi hc => ?_⟩
  · rw [← byteAddr_zero] at h0
    have hw : fetch t = .word (wordOfBytes b0 b1 b2 b3) :=
      (fetch_eq_word_iff t _).mpr ⟨hm, not_fetchesModified_of_not_mem hs, readWord_of_bytes h0 h1 h2 h3⟩
    rw [step_of_boundary_run hb, runInstruction_eq hw (decode_of_decodeBytes hd)]
  · rw [← arrive_of_nil hi] at hc
    rw [boundary_of_no_candidate hc, arrive_of_nil hi]

/-! ### What leaves memory and the PIC alone -/

/-- Memory, the record of stores and the PIC are the same in both states. -/
structure SameStorage (s t : State) : Prop where
  mem : t.mem = s.mem
  stored : t.stored = s.stored
  pic : t.pic = s.pic

theorem SameStorage.advance {s t : State} (h : SameStorage s t) : SameStorage s t.advance := { h with }

theorem setReg_sameStorage (s : State) (r : Reg) (v : Word) : SameStorage s (s.setReg r v) := ⟨rfl, rfl, rfl⟩

theorem setSpr_sameStorage (s : State) (r : SprReg) (v : Word) : SameStorage s (s.setSpr r v) :=
  ⟨setSpr_mem s r v, setSpr_stored s r v, setSpr_pic s r v⟩

theorem takeInterrupt_sameStorage (s : State) (t : IntType) (ret : Word) (e : Option Word) :
    SameStorage s (s.takeInterrupt t ret e) :=
  ⟨takeInterrupt_mem s t ret e, takeInterrupt_stored s t ret e, takeInterrupt_pic s t ret e⟩

/-- Every effect but a store leaves memory and the PIC (R80, R86). -/
theorem Effect.sameStorage {s t : State} {i : Instr} (h : Effect s i t) (hi : ∀ rs ra d, i ≠ .stwu rs ra d) :
    SameStorage s t := by
  cases h with
  | trap hp hs => exact takeInterrupt_sameStorage ..
  | result v hr => exact (setReg_sameStorage s _ v).advance
  | record rs ra sh mb me => exact ⟨rfl, rfl, rfl⟩
  | branch li aa lk => exact ⟨link_mem s lk, link_stored s lk, link_pic s lk⟩
  | branchLr bo bi lk => exact ⟨link_mem s lk, link_stored s lk, link_pic s lk⟩
  | call => exact takeInterrupt_sameStorage ..
  | ret hs hw => exact ⟨rfl, rfl, rfl⟩
  | writeMsr hs hw => exact ⟨rfl, rfl, rfl⟩
  | writeSpr hp hn => exact (setSpr_sameStorage s _ _).advance
  | writeMaskedSpr hp hn => exact (setSpr_sameStorage s _ _).advance
  | store hra ha hu => exact absurd rfl (hi _ _ _)

/-- Settles O57: of the effects an instruction can have only the store's reaches memory or the PIC. -/
theorem onlyStwuWritesMemory : Obligations.OnlyStwuWritesMemory := by
  intro i s t h hi
  obtain ⟨hm, hst, hp⟩ := (exec_effect h).sameStorage hi
  exact ⟨fun a => by rw [hm], hst, hp⟩

end Sys2Proof.Machine
end

section
/-!
PROOFS. The encodings: every word of a row decodes by it (O2), and the decoder reads back the fields the formats place
in an instruction's word (O1), also from the word's four bytes (O6); a fetched word of no row stops the step (O3).
-/

namespace Sys2Proof

/-! ### The fields of an encoded word -/

@[simp] theorem toFin_bits5 (r : Fin 32) : (bits5 r).toFin = r := rfl

/-- The fields of a D-form word (R112). -/
theorem encodeD_fields (op : BitVec 6) (r1 r2 : Reg) (imm : BitVec 16) :
    field5 (encodeD op r1 r2 imm) 21 = r1 ∧ field5 (encodeD op r1 r2 imm) 16 = r2 ∧
      field16 (encodeD op r1 r2 imm) = imm := by
  simp (disch := decide) only [encodeD, field5, field16, BitVec.extractLsb'_append_eq_of_le,
    BitVec.extractLsb'_append_eq_of_add_le, Nat.reduceSub, BitVec.extractLsb'_eq_self, toFin_bits5, and_self]

/-- The register of an `mtmsr` or `mfmsr` word (R115). -/
theorem encodeX_field (r : Reg) (xo : BitVec 10) : field5 (encodeX r xo) 21 = r := by
  simp (disch := decide) only [encodeX, field5, BitVec.extractLsb'_append_eq_of_le,
    BitVec.extractLsb'_append_eq_of_add_le, Nat.reduceSub, BitVec.extractLsb'_eq_self, toFin_bits5]

/-- The register and the SPR number of an XFX-form word: the swapped halves meet again (R116). -/
theorem encodeXFX_fields (r : Reg) (sprn xo : BitVec 10) :
    field5 (encodeXFX r sprn xo) 21 = r ∧ fieldSpr (encodeXFX r sprn xo) = sprn := by
  simp (disch := decide) only [encodeXFX, field5, fieldSpr, BitVec.extractLsb'_append_eq_of_le,
    BitVec.extractLsb'_append_eq_of_add_le, BitVec.extractLsb'_append_extractLsb'_eq_extractLsb', Nat.reduceSub,
    BitVec.extractLsb'_eq_self, toFin_bits5, and_self]

theorem encode_b_fields (li : BitVec 24) (aa lk : Bool) :
    (encode (.b li aa lk)).extractLsb' 2 24 = li ∧ (encode (.b li aa lk)).getLsbD 1 = aa ∧
      (encode (.b li aa lk)).getLsbD 0 = lk := by
  simp (disch := decide) only [encode, BitVec.extractLsb'_append_eq_of_le, BitVec.extractLsb'_append_eq_of_add_le,
    Nat.reduceSub, BitVec.extractLsb'_eq_self, BitVec.getLsbD_append]
  simp

theorem encode_bclr_fields (bo : BitVec 5) (bi : Fin 32) (lk : Bool) :
    (encode (.bclr bo bi lk)).extractLsb' 21 5 = bo ∧ field5 (encode (.bclr bo bi lk)) 16 = bi ∧
      (encode (.bclr bo bi lk)).getLsbD 0 = lk := by
  simp (disch := decide) only [encode, field5, BitVec.extractLsb'_append_eq_of_le,
    BitVec.extractLsb'_append_eq_of_add_le, Nat.reduceSub, BitVec.extractLsb'_eq_self, BitVec.getLsbD_append,
    toFin_bits5]
  simp

theorem encode_rlwinm_fields (rs ra : Reg) (sh mb me : Fin 32) (rc : Bool) :
    field5 (encode (.rlwinm rs ra sh mb me rc)) 21 = rs ∧ field5 (encode (.rlwinm rs ra sh mb me rc)) 16 = ra ∧
      field5 (encode (.rlwinm rs ra sh mb me rc)) 11 = sh ∧ field5 (encode (.rlwinm rs ra sh mb me rc)) 6 = mb ∧
      field5 (encode (.rlwinm rs ra sh mb me rc)) 1 = me ∧ (encode (.rlwinm rs ra sh mb me rc)).getLsbD 0 = rc := by
  simp (disch := decide) only [encode, field5, BitVec.extractLsb'_append_eq_of_le,
    BitVec.extractLsb'_append_eq_of_add_le, Nat.reduceSub, BitVec.extractLsb'_eq_self, BitVec.getLsbD_append,
    toFin_bits5]
  simp

/-! ### The bits a row tests

Each mask is written out by the fields of the format: it keeps the opcodes and the reserved bits and clears the
operands.
-/

theorem encodeD_and_mask (op : BitVec 6) (r1 r2 : Reg) (imm : BitVec 16) :
    encodeD op r1 r2 imm &&& 0xFC000000 = op ++ 0#5 ++ 0#5 ++ 0#16 := by
  change op ++ bits5 r1 ++ bits5 r2 ++ imm &&& (BitVec.allOnes 6 ++ 0#5 ++ 0#5 ++ 0#16) = _
  simp only [BitVec.and_append, BitVec.and_allOnes, BitVec.and_zero]

theorem encodeX_and_mask (r : Reg) (xo : BitVec 10) :
    encodeX r xo &&& 0xFC1FFFFF = 31#6 ++ 0#5 ++ 0#10 ++ xo ++ 0#1 := by
  change 31#6 ++ bits5 r ++ 0#10 ++ xo ++ 0#1 &&&
    (BitVec.allOnes 6 ++ 0#5 ++ BitVec.allOnes 10 ++ BitVec.allOnes 10 ++ BitVec.allOnes 1) = _
  simp only [BitVec.and_append, BitVec.and_allOnes, BitVec.and_zero]

theorem encodeXFX_and_mask (r : Reg) (sprn xo : BitVec 10) :
    encodeXFX r sprn xo &&& 0xFC0007FF = 31#6 ++ 0#5 ++ 0#5 ++ 0#5 ++ xo ++ 0#1 := by
  change 31#6 ++ bits5 r ++ sprn.extractLsb' 0 5 ++ sprn.extractLsb' 5 5 ++ xo ++ 0#1 &&&
    (BitVec.allOnes 6 ++ 0#5 ++ 0#5 ++ 0#5 ++ BitVec.allOnes 10 ++ BitVec.allOnes 1) = _
  simp only [BitVec.and_append, BitVec.and_allOnes, BitVec.and_zero]

theorem encode_b_and_mask (li : BitVec 24) (aa lk : Bool) : encode (.b li aa lk) &&& 0xFC000000 = 0x48000000 := by
  change 18#6 ++ li ++ BitVec.ofBool aa ++ BitVec.ofBool lk &&& (BitVec.allOnes 6 ++ 0#24 ++ 0#1 ++ 0#1) =
    18#6 ++ 0#24 ++ 0#1 ++ 0#1
  simp only [BitVec.and_append, BitVec.and_allOnes, BitVec.and_zero]

theorem encode_bclr_and_mask (bo : BitVec 5) (bi : Fin 32) (lk : Bool) :
    encode (.bclr bo bi lk) &&& 0xFC00FFFE = 0x4C000020 := by
  change 19#6 ++ bo ++ bits5 bi ++ 0#5 ++ 16#10 ++ BitVec.ofBool lk &&&
    (BitVec.allOnes 6 ++ 0#5 ++ 0#5 ++ BitVec.allOnes 5 ++ BitVec.allOnes 10 ++ 0#1) =
    19#6 ++ 0#5 ++ 0#5 ++ 0#5 ++ 16#10 ++ 0#1
  simp only [BitVec.and_append, BitVec.and_allOnes, BitVec.and_zero]

theorem encode_rlwinm_and_mask (rs ra : Reg) (sh mb me : Fin 32) (rc : Bool) :
    encode (.rlwinm rs ra sh mb me rc) &&& 0xFC000000 = 0x54000000 := by
  change 21#6 ++ bits5 rs ++ bits5 ra ++ bits5 sh ++ bits5 mb ++ bits5 me ++ BitVec.ofBool rc &&&
    (BitVec.allOnes 6 ++ 0#5 ++ 0#5 ++ 0#5 ++ 0#5 ++ 0#5 ++ 0#1) = 21#6 ++ 0#5 ++ 0#5 ++ 0#5 ++ 0#5 ++ 0#5 ++ 0#1
  simp only [BitVec.and_append, BitVec.and_allOnes, BitVec.and_zero]

/-! ### Decoding an encoded word -/

/-- The word of an instruction matches the instruction's row, whose fields give the operands back. -/
theorem decode_encode (i : Instr) : decode (encode i) = .ok i := by
  cases i with
  | addi rt ra si => simp only [encode, decode_addi (encodeD_and_mask 14 rt ra si), encodeD_fields]
  | addis rt ra si => simp only [encode, decode_addis (encodeD_and_mask 15 rt ra si), encodeD_fields]
  | sc => exact decode_sc rfl
  | b li aa lk => simp only [decode_b (encode_b_and_mask li aa lk), encode_b_fields]
  | bclr bo bi lk => simp only [decode_bclr (encode_bclr_and_mask bo bi lk), encode_bclr_fields]
  | rfi => exact decode_rfi rfl
  | rlwinm rs ra sh mb me rc =>
    simp only [decode_rlwinm (encode_rlwinm_and_mask rs ra sh mb me rc), encode_rlwinm_fields]
  | ori rs ra ui => simp only [encode, decode_ori (encodeD_and_mask 24 rs ra ui), encodeD_fields]
  | mfmsr rt => simp only [encode, decode_mfmsr (encodeX_and_mask rt 83), encodeX_field]
  | mtmsr rs => simp only [encode, decode_mtmsr (encodeX_and_mask rs 146), encodeX_field]
  | mfspr rt sprn => simp only [encode, decode_mfspr (encodeXFX_and_mask rt sprn 339), encodeXFX_fields]
  | mtspr sprn rs => simp only [encode, decode_mtspr (encodeXFX_and_mask rs sprn 467), encodeXFX_fields]
  | stwu rs ra d => simp only [encode, decode_stwu (encodeD_and_mask 37 rs ra d), encodeD_fields]

/-- Settles O1: each word is written out as the formats encode its instruction. -/
theorem specWordsDecode : Obligations.SpecWordsDecode :=
  ⟨decode_encode (.mtspr 275 3), decode_encode (.mfmsr 3), decode_encode (.rlwinm 3 3 0 15 13 false),
    decode_encode (.mtmsr 3), decode_encode (.ori 0 0 0), decode_encode (.mfspr 3 8),
    decode_encode (.b 0x0661CA false true), decode_encode (.addi 3 1 0), decode_encode (.b 0x074EA7 false true),
    decode_encode (.addi 1 1 16), decode_encode (.b 0x066275 false true), decode_encode (.stwu 1 1 0xFFF0),
    decode_encode (.addis 1 0 0xFFF8), decode_encode (.bclr 20 0 false), decode_encode .rfi, decode_encode .sc⟩

/-- Settles O2: row by row, the rows of `sc` and `rfi` having one word each. -/
theorem everyRowDecodesItsWords : Obligations.EveryRowDecodesItsWords := by
  refine fun w => ⟨decode_addi, decode_addis, ?_, decode_b, decode_bclr, ?_, decode_rlwinm, decode_ori, decode_mfmsr,
    decode_mtmsr, decode_mfspr, decode_mtspr, decode_stwu⟩
  · rintro rfl
    exact decode_sc rfl
  · rintro rfl
    exact decode_rfi rfl

end Sys2Proof

namespace Sys2Proof.Machine

/-! ### The four bytes of an instruction -/

/-- Four bytes whose word decodes are one instruction, whatever comes after them (R110). -/
theorem decodeBytes_of_decode {b0 b1 b2 b3 : Byte} {i : Instr} (h : decode (wordOfBytes b0 b1 b2 b3) = .ok i)
    (rest : List Byte) : decodeBytes (b0 :: b1 :: b2 :: b3 :: rest) = .ok (i, rest) := by
  simp only [decodeBytes, h]

/-- Settles O6: the four bytes of a word make the word again. -/
theorem instructionIsFourBytesBigEndian : Obligations.InstructionIsFourBytesBigEndian := by
  intro i rest
  apply decodeBytes_of_decode
  rw [wordOfBytes_extract, decode_encode]

/-! ### A word outside the table -/

/-- A fetched word that does not decode is refused by name (R125). -/
theorem runInstruction_of_decode_error {s : State} {w : Word} {e : DecodeError} (hw : fetch s = .word w)
    (he : decode w = .error e) : runInstruction s = .refused (.instructionNotInSpec w) := by
  simp only [runInstruction, hw, he]

/-- Settles O3: the thirteen listed pairs are the patterns and masks of `opRows`, so the word does not decode. -/
theorem wordOutsideTableIsRefused : Obligations.WordOutsideTableIsRefused := by
  intro s t w hb hw hout
  have hrows : ∀ r ∈ opRows, w &&& r.mask ≠ r.pattern := fun r hr =>
    hout (r.pattern, r.mask) (List.mem_map_of_mem (f := fun r : OpRow => (r.pattern, r.mask)) hr)
  rw [step_of_boundary_run hb, runInstruction_of_decode_error hw (decode_eq_error hrows)]

end Sys2Proof.Machine
end

section
/-!
PROOFS. The integer instructions: each writes its result to its target register and goes on at `pc + 4`, and
`rlwinm.` also records the result in cr0 (O11 to O15).
-/

namespace Sys2Proof.Machine

/-! ### What an integer instruction leaves behind -/

/-- An instruction that gives its target `r` the result `v`: the target, the other registers, and the frame. -/
theorem exec_of_result {i : Instr} {s : State} {r : Reg} {v : Word}
    (h : exec i s = .next (s.setReg r v).advance) :
    ∃ t, exec i s = .next t ∧ t = { s with gpr := t.gpr, pc := s.pc + 4 } ∧ t.reg r = v ∧
      ∀ q, q ≠ r → t.reg q = s.reg q :=
  ⟨_, h, rfl, reg_setReg_same s r v, fun _ hq => reg_setReg_ne s v hq⟩

/-- `rlwinm` gives RA the result, and CR the record of the result when Rc is set (R143, R144). -/
theorem exec_rlwinm (rs ra : Reg) (sh mb me : Fin 32) (rc : Bool) (s : State) :
    ∃ t, exec (.rlwinm rs ra sh mb me rc) s = .next t ∧ t = { s with gpr := t.gpr, pc := s.pc + 4, cr := t.cr } ∧
      t.reg ra = s.rlwinmResult rs sh mb me ∧ (∀ q, q ≠ ra → t.reg q = s.reg q) ∧
      t.cr = if rc then (s.recordCr0 (t.reg ra)).cr else s.cr := by
  have hra := reg_setReg_same s ra (s.rlwinmResult rs sh mb me)
  cases rc with
  | false => exact ⟨_, rfl, rfl, hra, fun _ hq => reg_setReg_ne s _ hq, rfl⟩
  | true =>
    exact ⟨_, rfl, rfl, hra, fun _ hq => reg_setReg_ne s _ hq, congrArg (fun v => (s.recordCr0 v).cr) hra.symm⟩

/-! ### Results as numbers and bits -/

theorem toInt_raOrZero (s : State) (ra : Reg) : (s.raOrZero ra).toInt = if ra = 0 then 0 else (s.reg ra).toInt :=
  apply_ite BitVec.toInt _ _ _

theorem toNat_raOrZero (s : State) (ra : Reg) : (s.raOrZero ra).toNat = if ra = 0 then 0 else (s.reg ra).toNat :=
  apply_ite BitVec.toNat _ _ _

/-- IBM-32 position `p` of the result of `rlwinm`: the source's position `p + SH` under the mask (R143). -/
theorem getLsbD_rlwinmResult (s : State) (rs : Reg) (sh mb me p : Fin 32) :
    (s.rlwinmResult rs sh mb me).getLsbD (31 - p.val) =
      ((if mb ≤ me then decide (mb ≤ p ∧ p ≤ me) else decide (p ≤ me ∨ mb ≤ p)) &&
        (s.reg rs).getLsbD (31 - (p.val + sh.val) % 32)) := by
  rw [State.rlwinmResult, BitVec.getLsbD_and, getLsbD_rotl32, getLsbD_mask32, Bool.and_comm]

/-! ### The statements -/

/-- Settles O14: the result is the rotated source under the mask, bit by bit. -/
theorem rlwinmRotatesAndMasks : Obligations.RlwinmRotatesAndMasks := by
  refine ⟨fun _ => decode_rlwinm, fun rs ra sh mb me rc s => ?_⟩
  obtain ⟨t, ht, hframe, hra, hne, hcr⟩ := exec_rlwinm rs ra sh mb me rc s
  exact ⟨t, ht, hframe, fun p => by rw [hra, getLsbD_rlwinmResult], hne, hcr⟩

/-- Settles O15: with Rc set the CR left is the record of what RA received. -/
theorem recordFormSetsCr0 : Obligations.RecordFormSetsCr0 := by
  intro rs ra sh mb me s
  obtain ⟨t, ht, -, -, -, hcr⟩ := exec_rlwinm rs ra sh mb me true s
  rw [if_pos rfl] at hcr
  exact ⟨t, ht, hcr ▸ recordCr0_bits s (t.reg ra)⟩

/-- Settles O11: the immediate is sign-extended, and adding words is adding integers and wrapping. -/
theorem addiAddsSignedImmediate : Obligations.AddiAddsSignedImmediate := by
  refine ⟨fun _ => decode_addi, fun rt ra si s => ?_⟩
  obtain ⟨t, ht, hframe, hrt, hne⟩ := exec_of_result (i := .addi rt ra si) (s := s) rfl
  refine ⟨t, ht, hframe, ?_, hne⟩
  rw [hrt, ← toInt_raOrZero, ← toInt_signedImm, ofInt_toInt_add_toInt]

/-- Settles O12: the shifted immediate is the immediate times 2^16. -/
theorem addisAddsShiftedImmediate : Obligations.AddisAddsShiftedImmediate := by
  refine ⟨fun _ => decode_addis, fun rt ra si s => ?_⟩
  obtain ⟨t, ht, hframe, hrt, hne⟩ := exec_of_result (i := .addis rt ra si) (s := s) rfl
  refine ⟨t, ht, hframe, ?_, hne⟩
  rw [hrt, BitVec.toNat_add, toNat_raOrZero, toNat_shiftedImm]

/-- Settles O13: the immediate is zero-extended, so it has no bit from 16 up. -/
theorem oriOrsUnsignedImmediate : Obligations.OriOrsUnsignedImmediate := by
  refine ⟨fun _ => decode_ori, fun rs ra ui s => ?_⟩
  obtain ⟨t, ht, hframe, hra, hne⟩ := exec_of_result (i := .ori rs ra ui) (s := s) rfl
  exact ⟨t, ht, hframe, fun k _ => by rw [hra, BitVec.getLsbD_or, getLsbD_unsignedImm], hne⟩

end Sys2Proof.Machine
end

section
/-!
PROOFS. The branches: each links LR from its own address and goes on at its target or at `pc + 4` (O16, O17).
-/

namespace Sys2Proof.Machine

/-! ### Where `b` goes -/

/-- The target of `b` as an integer sum, wrapped: the displacement, from the branch's own address unless AA (R150). -/
theorem branchTarget_eq (s : State) (li : BitVec 24) (aa : Bool) :
    (if aa then branchDisp li else s.pc + branchDisp li) =
      BitVec.ofInt 32 ((if aa then 0 else s.pc.toInt) + li.toInt * 4) := by
  rw [← toInt_branchDisp]
  cases aa with
  | false => exact (ofInt_toInt_add_toInt s.pc (branchDisp li)).symm
  | true => exact ((congrArg _ (Int.zero_add _)).trans BitVec.ofInt_toInt).symm

/-! ### What the BO field asks for

The columns of R152: the two bits of weight 4 and 2 say what is asked of the CTR, the two of weight 16 and 8 what is
asked of CR bit BI. Each lemma speaks of the BO values of a row, listed as numbers.
-/

/-- Bit `k` of a BO value has weight `2 ^ k` (R151). -/
theorem boBit_eq_decide (bo : BitVec 5) (k : Nat) : bo.getLsbD k = decide (bo.toNat / 2 ^ k % 2 = 1) :=
  Nat.testBit_eq_decide_div_mod_eq

theorem ctrAfter_eq (s : State) (bo : BitVec 5) :
    s.ctrAfter bo = if bo.toNat / 4 % 2 = 0 then s.ctr - 1 else s.ctr := by
  rw [State.ctrAfter, boDecrements, boBit_eq_decide]
  simp

theorem ctrOk_iff (s : State) (bo : BitVec 5) :
    s.ctrOk bo = true ↔ bo.toNat / 4 % 2 = 1 ∨ (s.ctrAfter bo = 0 ↔ bo.toNat / 2 % 2 = 1) := by
  rw [State.ctrOk, boBit_eq_decide, boBit_eq_decide]
  by_cases hz : s.ctrAfter bo = 0#32
  · simp [hz]
  · simp [hz, bne_iff_ne.mpr hz]

theorem condOk_iff (s : State) (bo : BitVec 5) (bi : Fin 32) :
    s.condOk bo bi = true ↔ bo.toNat / 16 % 2 = 1 ∨ (s.crBit bi = true ↔ bo.toNat / 8 % 2 = 1) := by
  rw [State.condOk, boBit_eq_decide, boBit_eq_decide]
  cases s.crBit bi <;> simp

section
variable {bo : BitVec 5} {row : List Nat} (s : State) (hbo : bo.toNat ∈ row)
include hbo

theorem ctrOk_iff_ctr_ne_zero (hrow : ∀ n ∈ row, n / 4 % 2 = 0 ∧ n / 2 % 2 = 0 := by decide) :
    s.ctrOk bo = true ↔ s.ctrAfter bo ≠ 0 := by
  obtain ⟨h4, h2⟩ := hrow _ hbo
  simp [ctrOk_iff, h4, h2]

theorem ctrOk_iff_ctr_eq_zero (hrow : ∀ n ∈ row, n / 4 % 2 = 0 ∧ n / 2 % 2 = 1 := by decide) :
    s.ctrOk bo = true ↔ s.ctrAfter bo = 0 := by
  obtain ⟨h4, h2⟩ := hrow _ hbo
  simp [ctrOk_iff, h4, h2]

theorem ctrOk_of_ctr_kept (hrow : ∀ n ∈ row, n / 4 % 2 = 1 := by decide) : s.ctrOk bo = true :=
  (ctrOk_iff s bo).mpr (.inl (hrow _ hbo))

theorem condOk_iff_crBit_clear (bi : Fin 32) (hrow : ∀ n ∈ row, n / 16 % 2 = 0 ∧ n / 8 % 2 = 0 := by decide) :
    s.condOk bo bi = true ↔ s.crBit bi = false := by
  obtain ⟨h16, h8⟩ := hrow _ hbo
  simp [condOk_iff, h16, h8]

theorem condOk_iff_crBit_set (bi : Fin 32) (hrow : ∀ n ∈ row, n / 16 % 2 = 0 ∧ n / 8 % 2 = 1 := by decide) :
    s.condOk bo bi = true ↔ s.crBit bi = true := by
  obtain ⟨h16, h8⟩ := hrow _ hbo
  simp [condOk_iff, h16, h8]

theorem condOk_of_condition_ignored (bi : Fin 32) (hrow : ∀ n ∈ row, n / 16 % 2 = 1 := by decide) :
    s.condOk bo bi = true :=
  (condOk_iff s bo bi).mpr (.inl (hrow _ hbo))

end

/-! ### What a branch leaves behind -/

theorem exec_b (li : BitVec 24) (aa lk : Bool) (s : State) :
    exec (.b li aa lk) s = .next { s with
      pc := if aa then branchDisp li else s.pc + branchDisp li, lr := if lk then s.pc + 4 else s.lr } := by
  cases lk <;> rfl

theorem exec_bclr (bo : BitVec 5) (bi : Fin 32) (lk : Bool) (s : State) :
    exec (.bclr bo bi lk) s = .next { s with
      pc := if s.ctrOk bo && s.condOk bo bi then alignPc s.lr else s.pc + 4
      lr := if lk then s.pc + 4 else s.lr
      ctr := s.ctrAfter bo } := by
  cases lk <;> rfl

/-- Where `bclr` goes, under a condition `c` that says when its two tests pass (R151). -/
theorem bclr_goes {s : State} {bo : BitVec 5} {bi : Fin 32} {c : Prop}
    (hc : s.ctrOk bo = true ∧ s.condOk bo bi = true ↔ c) :
    (c → (if s.ctrOk bo && s.condOk bo bi then alignPc s.lr else s.pc + 4).toNat = s.lr.toNat / 4 * 4) ∧
      (¬ c → (if s.ctrOk bo && s.condOk bo bi then alignPc s.lr else s.pc + 4) = s.pc + 4) := by
  rw [← Bool.and_eq_true] at hc
  refine ⟨fun h => ?_, fun h => if_neg (mt hc.mp h)⟩
  rw [if_pos (hc.mpr h), toNat_alignPc]

/-! ### The statements -/

/-- Settles O17: `bclr` branches when its two tests pass; by the BO value's row they pass on the row's condition. -/
theorem bclrFollowsTheBoTable : Obligations.BclrFollowsTheBoTable := by
  refine ⟨fun _ => decode_bclr, fun bo bi lk s => ⟨_, exec_bclr bo bi lk s, rfl, rfl, ctrAfter_eq s bo, ?_⟩⟩
  exact ⟨
    fun h => bclr_goes (and_congr (ctrOk_iff_ctr_ne_zero s h) (condOk_iff_crBit_clear s h bi)),
    fun h => bclr_goes (and_congr (ctrOk_iff_ctr_eq_zero s h) (condOk_iff_crBit_clear s h bi)),
    fun h => bclr_goes ((and_iff_right (ctrOk_of_ctr_kept s h)).trans (condOk_iff_crBit_clear s h bi)),
    fun h => bclr_goes (and_congr (ctrOk_iff_ctr_ne_zero s h) (condOk_iff_crBit_set s h bi)),
    fun h => bclr_goes (and_congr (ctrOk_iff_ctr_eq_zero s h) (condOk_iff_crBit_set s h bi)),
    fun h => bclr_goes ((and_iff_right (ctrOk_of_ctr_kept s h)).trans (condOk_iff_crBit_set s h bi)),
    fun h => bclr_goes ((and_iff_left (condOk_of_condition_ignored s h bi)).trans (ctrOk_iff_ctr_ne_zero s h)),
    fun h => bclr_goes ((and_iff_left (condOk_of_condition_ignored s h bi)).trans (ctrOk_iff_ctr_eq_zero s h)),
    fun h => bclr_goes (iff_true_intro ⟨ctrOk_of_ctr_kept s h, condOk_of_condition_ignored s h bi⟩)⟩

/-- Settles O16: the displacement is LI times 4, and adding words is adding integers and wrapping. -/
theorem branchTargetsAndLinks : Obligations.BranchTargetsAndLinks :=
  ⟨fun _ => decode_b, fun li aa lk s => ⟨_, exec_b li aa lk s, rfl, rfl, branchTarget_eq s li aa⟩⟩

end Sys2Proof.Machine
end

section
/-!
PROOFS. The store: a `stwu` stores where its target lies, or is refused under the name of the first ground it meets
(O18, O20).
-/

namespace Sys2Proof.Machine

/-! ### The effective address -/

theorem effectiveAddress_eq (s : State) (ra : Reg) (d : BitVec 16) :
    s.effectiveAddress ra d = BitVec.ofInt 32 ((s.reg ra).toInt + d.toInt) := by
  rw [← toInt_signedImm, ofInt_toInt_add_toInt, State.effectiveAddress]

/-! ### Where a store is refused -/

/-- Where no register but PIC_IACK lies, the PIC block refuses a store (R249). -/
theorem storeTarget_pic_unlisted {c : Config} {ea : Word} (hp : inPicBlock c ea = true)
    (hr : ∀ r, r ≠ .iack → picRegOffset r ≠ picOffset c ea) :
    storeTarget c ea = .refused (.picRegisterOutsideSpec ea) := by
  rw [storeTarget, if_pos hp]
  cases hq : picRegAt (picOffset c ea) with
  | none => rfl
  | some q =>
    obtain rfl : q = .iack := by_contra fun hne => hr q hne (picRegAt_some hq)
    rfl

theorem storeTarget_outside {c : Config} {ea : Word} (hp : inPicBlock c ea = false) (hm : isMemWord c ea = false) :
    storeTarget c ea = .refused (.storeOutsideMemory ea) := by
  simp [storeTarget, hp, hm]

theorem storeWord_of_memory {s : State} {ea v : Word} (h : isMemWord s.config ea = true) :
    storeWord ea v s = .next (s.storeMem ea v) := by
  rw [storeWord, storeTarget_memory h]

theorem storeWord_of_refused {s : State} {ea v : Word} {r : Refusal} (h : storeTarget s.config ea = .refused r) :
    storeWord ea v s = .refused r := by
  rw [storeWord, h]

/-! ### `stwu` by what its store does -/

theorem exec_stwu_base_zero (rs : Reg) (d : BitVec 16) (s : State) :
    exec (.stwu rs 0 d) s = .refused .stwuInvalidForm := rfl

section
variable {rs ra : Reg} {d : BitVec 16} {s : State} (hra : ra ≠ 0)
include hra

theorem exec_stwu_misaligned (ha : (s.effectiveAddress ra d).toNat % 4 ≠ 0) :
    exec (.stwu rs ra d) s = .refused (.misalignedStore (s.effectiveAddress ra d)) := by
  rw [Ne, ← isAligned_iff] at ha
  simp [exec, execStwu, hra, ha]

variable (ha : (s.effectiveAddress ra d).toNat % 4 = 0)
include ha

/-- A `stwu` whose store goes on updates its base (R160). -/
theorem exec_stwu_of_next {u : State} (hu : storeWord (s.effectiveAddress ra d) (s.reg rs) s = .next u) :
    exec (.stwu rs ra d) s = .next (u.setReg ra (s.effectiveAddress ra d)).advance := by
  rw [← isAligned_iff] at ha
  simp [exec, execStwu, hra, ha, hu]

/-- A `stwu` whose target is refused is refused under the same name (R160). -/
theorem exec_stwu_of_refused {r : Refusal} (hr : storeTarget s.config (s.effectiveAddress ra d) = .refused r) :
    exec (.stwu rs ra d) s = .refused r := by
  rw [← isAligned_iff] at ha
  simp [exec, execStwu, hra, ha, storeWord_of_refused hr]

end

/-! ### The bytes of an aligned store -/

section
variable {a : Word} (s : State) (v : Word) (ha : a.toNat % 4 = 0)
include ha

theorem storeMem_readByte_of_aligned {k : Nat} (hk : k < 4) :
    Memory.readByte (s.storeMem a v).mem (a.toNat + k) = some (v.extractLsb' (24 - 8 * k) 8) := by
  rw [← byteAddr_of_aligned ha hk, storeMem_readByte s a v k hk]

theorem storeMem_readByte_outside {x : Nat} (hx : ¬ (a.toNat ≤ x ∧ x < a.toNat + 4)) :
    Memory.readByte (s.storeMem a v).mem x = Memory.readByte s.mem x := by
  rw [← isWordByte_of_aligned ha, Bool.not_eq_true] at hx
  exact storeMem_readByte_ne s a v x hx

theorem mem_storeMem_stored (x : Nat) :
    x ∈ (s.storeMem a v).stored ↔ x ∈ s.stored ∨ (a.toNat ≤ x ∧ x < a.toNat + 4) := by
  rw [storeMem_stored, mem_addWordAddrs, isWordByte_of_aligned ha, or_comm]

end

/-! ### The statements -/

/-- Settles O18: the state left is the store's with RA and `pc` updated, so its bytes and its record are the store's. -/
theorem stwuStoresWordAndUpdatesBase : Obligations.StwuStoresWordAndUpdatesBase := by
  intro rs ra d s hra ha hm
  exact ⟨effectiveAddress_eq s ra d, _, exec_stwu_of_next hra ha (storeWord_of_memory hm), rfl,
    reg_setReg_same _ ra _, fun _ hq => reg_setReg_ne _ _ hq,
    fun _ hk => storeMem_readByte_of_aligned s (s.reg rs) ha hk,
    fun _ hx => storeMem_readByte_outside s (s.reg rs) ha hx, mem_storeMem_stored s (s.reg rs) ha⟩

/-- Settles O20: RA = 0 and the alignment are looked at before the store, whose target is refused in the last two. -/
theorem stwuRefusals : Obligations.StwuRefusals :=
  ⟨exec_stwu_base_zero, fun _ _ _ _ hra ha => exec_stwu_misaligned hra ha,
    fun _ _ _ _ hra ha hp hr => exec_stwu_of_refused hra ha (storeTarget_pic_unlisted hp hr),
    fun _ _ _ _ hra ha hp hm => exec_stwu_of_refused hra ha (storeTarget_outside hp hm)⟩

end Sys2Proof.Machine
end

section
/-!
PROOFS. The special-purpose registers: which register `mtspr` writes and under which mask, what `mfspr` reads, and the
numbers either refuses (O24 to O28).
-/

namespace Sys2Proof.Machine

/-! ### Privilege -/

/-- Settles O24: the rows of R36, each under its own number, have their privilege column from bit 4. -/
theorem sprPrivilegeIsBitFour : Obligations.SprPrivilegeIsBitFour := by
  intro n r h
  obtain ⟨hr, hn⟩ := sprRow_some h
  have hbit : r.num.testBit 4 = n.getLsbD 4 := by rw [hn]; rfl
  rw [sprTable_privilege r hr, hbit]

/-- A mode may access the numbers without bit 4, and supervisor mode all of them (R172). -/
theorem sprAccess_allowed {n : BitVec 10} {s : State} (h : n.getLsbD 4 = false ∨ s.pr = false) :
    (sprPrivileged n && s.pr) = false :=
  Bool.and_eq_false_iff.mpr h

/-! ### The "model" column of R36 -/

/-- `mtspr` of number `n` writes register `r` under the mask `m`. -/
def WritesUnder (n : BitVec 10) (r : SprReg) (m : Word) : Prop :=
  (sprModel n = .rw r ∧ m = 0xFFFFFFFF) ∨ sprModel n = .masked r m

/-- The bits a treatment lets through: all of them but for a masked register. -/
def SprModel.mask : SprModel → Word
  | .masked _ m => m
  | _ => 0xFFFFFFFF

theorem exists_writesUnder {n : BitVec 10} (hw : (sprModel n).writable = true) :
    ∃ r, WritesUnder n r (sprModel n).mask := by
  cases hn : sprModel n with
  | rw r => exact ⟨r, .inl ⟨hn, rfl⟩⟩
  | masked r m => exact ⟨r, .inr hn⟩
  | ro | roPir | roPvr | refuse => rw [hn] at hw; cases hw

/-- The mask of a number: that of IVPR at 63, that of the IVORs at theirs, all bits elsewhere (R42, R43). -/
def sprNumberMask (k : Nat) : Word :=
  if k = 63 then 0xFFFF0000
  else if (400 ≤ k ∧ k ≤ 415) ∨ (528 ≤ k ∧ k ≤ 531) then 0x0000FFF0
  else 0xFFFFFFFF

theorem sprTable_mask : ∀ r ∈ sprTable, r.model.mask = sprNumberMask r.num := by decide

theorem sprModel_mask {n : BitVec 10} (hw : (sprModel n).writable = true) :
    (sprModel n).mask = sprNumberMask n.toNat := by
  obtain ⟨r, hr, hn, hm⟩ := sprModel_ne_refuse (n := n) (fun e => by rw [e] at hw; cases hw)
  rw [← hm, ← hn, sprTable_mask r hr]

/-- What `mfspr` reads of a number that is treated so (R171); a refused one reads nothing. -/
def State.sprValue (s : State) : SprModel → Word
  | .rw r => s.spr r
  | .masked r _ => s.spr r
  | .ro r => s.spr r
  | .roPir => s.pir
  | .roPvr => s.pvr
  | .refuse => 0

theorem sprValue_of_register (s : State) {p : SprModel} {r : SprReg} {m : Word}
    (h : p = .rw r ∨ p = .masked r m ∨ p = .ro r) : s.sprValue p = s.spr r := by
  obtain rfl | rfl | rfl := h <;> rfl

theorem sprValue_of_writesUnder (s : State) {n : BitVec 10} {r : SprReg} {m : Word} (h : WritesUnder n r m) :
    s.sprValue (sprModel n) = s.spr r :=
  sprValue_of_register s (m := m) (h.imp And.left .inl)

theorem readable_of_writable {p : SprModel} (h : p.writable = true) : p.readable = true := by
  cases p with
  | rw | masked => rfl
  | ro | roPir | roPvr | refuse => cases h

theorem pvr_eq (s : State) : s.pvr = if s.config.variant = .e500v1 then 0x80200010 else 0x80210010 := by
  cases h : s.config.variant <;> simp [State.pvr, h]

/-! ### `mtspr` and `mfspr` of a number the mode may access -/

section
variable {n : BitVec 10} {s : State} (h : n.getLsbD 4 = false ∨ s.pr = false)
include h

theorem exec_mtspr_of_writesUnder {r : SprReg} {m : Word} (hn : WritesUnder n r m) (rs : Reg) :
    exec (.mtspr n rs) s = .next (s.setSpr r (s.reg rs &&& m)).advance := by
  have hp := sprAccess_allowed h
  obtain ⟨hn, rfl⟩ | hn := hn
  · rw [show s.reg rs &&& 0xFFFFFFFF = s.reg rs from BitVec.and_allOnes]
    simp [exec, execMtspr, hp, hn]
  · simp [exec, execMtspr, hp, hn]

theorem exec_mtspr_of_not_writable (hw : (sprModel n).writable = false) (rs : Reg) :
    exec (.mtspr n rs) s = .refused (.mtsprOutsideSpec n) := by
  have hp := sprAccess_allowed h
  cases hn : sprModel n with
  | rw | masked => rw [hn] at hw; cases hw
  | ro | roPir | roPvr | refuse => simp [exec, execMtspr, hp, hn]

theorem exec_mfspr_of_readable (hr : (sprModel n).readable = true) (rt : Reg) :
    exec (.mfspr rt n) s = .next (s.setReg rt (s.sprValue (sprModel n))).advance := by
  have hp := sprAccess_allowed h
  cases hn : sprModel n with
  | rw | masked | ro | roPir | roPvr => simp [exec, execMfspr, hp, hn, State.sprValue]
  | refuse => rw [hn] at hr; cases hr

theorem exec_mfspr_of_not_readable (hr : (sprModel n).readable = false) (rt : Reg) :
    exec (.mfspr rt n) s = .refused (.mfsprOutsideSpec n) := by
  have hp := sprAccess_allowed h
  have hn : sprModel n = .refuse := by
    cases hn : sprModel n with
    | refuse => rfl
    | rw | masked | ro | roPir | roPvr => rw [hn] at hr; cases hr
  simp [exec, execMfspr, hp, hn]

end

/-! ### The statements -/

/-- Settles O25: a write to one special register leaves the others and every other field. -/
theorem mtsprWritesRegister : Obligations.MtsprWritesRegister := by
  refine ⟨fun _ => decode_mtspr, fun n rs s r m h hn => ⟨_, exec_mtspr_of_writesUnder h hn rs, ?_, ?_, ?_⟩⟩
  · rw [advance_spr, spr_setSpr_same]
  · intro q hq
    rw [advance_spr, spr_setSpr, if_neg hq]
  · generalize s.reg rs &&& m = v
    have husprg0 : (s.setSpr r v).usprg0 = s.usprg0 := by cases r <;> rfl
    simp [State.advance, husprg0]

/-- Settles O26: RT receives what the number's row says is read. -/
theorem mfsprReadsRegister : Obligations.MfsprReadsRegister := by
  refine ⟨fun _ => decode_mfspr, fun rt n s h hr => ?_⟩
  obtain ⟨t, ht, hframe, hrt, hne⟩ := exec_of_result (exec_mfspr_of_readable h hr rt)
  refine ⟨t, ht, hframe, hne, fun r m hn => ?_, fun hn => ?_, fun hn => ?_⟩
  · rw [hrt, sprValue_of_register s hn]
  · rw [hrt, hn]
    rfl
  · rw [hrt, hn]
    exact pvr_eq s

/-- Settles O27: with the privilege condition met, the "model" column alone decides. -/
theorem sprOutsideSpecIsRefused : Obligations.SprOutsideSpecIsRefused :=
  fun _ r _ h => ⟨fun hw => exec_mtspr_of_not_writable h hw r, fun hr => exec_mfspr_of_not_readable h hr r⟩

/-- Settles O28: the write leaves the mode, so the read is allowed too, and it reads the register just written. -/
theorem sprReadAfterWrite : Obligations.SprReadAfterWrite := by
  intro n rs rt s h hw
  obtain ⟨r, hn⟩ := exists_writesUnder hw
  have hwrite := exec_mtspr_of_writesUnder h hn rs
  rw [sprModel_mask hw] at hwrite
  have hmode : (s.setSpr r (s.reg rs &&& sprNumberMask n.toNat)).advance.pr = s.pr := by simp [State.pr]
  refine ⟨_, _, hwrite, exec_mfspr_of_readable (by rwa [hmode]) (readable_of_writable hw) rt, ?_⟩
  rw [advance_reg, reg_setReg_same, sprValue_of_writesUnder _ hn, advance_spr, spr_setSpr_same, sprNumberMask]

end Sys2Proof.Machine
end

section
/-!
PROOFS. The MSR, `sc` and `rfi`: the moves to and from the MSR, the interrupts an instruction takes, and the return from
one (O29 to O32, O34, O35).
-/

namespace Sys2Proof.Machine

/-! ### In supervisor mode -/

section
variable {s : State} (hs : s.pr = false)
include hs

theorem exec_mtmsr {rs : Reg} (hw : (s.reg rs).getLsbD 18 = false) :
    exec (.mtmsr rs) s = .next (s.writeMsr (s.reg rs)).advance := by
  rw [← setsWe_eq] at hw
  simp [exec, execMtmsr, hs, hw]

theorem exec_mfmsr (rt : Reg) : exec (.mfmsr rt) s = .next (s.setReg rt s.msr).advance := by
  simp [exec, execMfmsr, hs]

theorem exec_rfi (hw : s.srr1.getLsbD 18 = false) : exec .rfi s = .next s.returnFromInterrupt := by
  rw [← setsWe_eq] at hw
  simp [exec, execRfi, hs, hw]

end

/-! ### In user mode -/

/-- A privileged instruction in user mode is the Program interrupt (R172, R223). -/
theorem exec_privileged {i : Instr} {s : State} (hi : privileged i = true) (hs : s.pr = true) :
    exec i s = .next s.privilegedProgram := by
  cases i with
  | rfi => simp [exec, execRfi, hs]
  | mfmsr rt => simp [exec, execMfmsr, hs]
  | mtmsr rs => simp [exec, execMtmsr, hs]
  | mfspr rt n =>
    have hn : sprPrivileged n = true := hi
    simp [exec, execMfspr, hs, hn]
  | mtspr n rs =>
    have hn : sprPrivileged n = true := hi
    simp [exec, execMtspr, hs, hn]
  | _ => cases hi

/-! ### What `rfi` finds after `sc` -/

/-- A word inside a mask meets another mask only where the two masks do. -/
theorem and_of_inside {x k : Word} (h : x &&& k = x) (m : Word) : x &&& m = x &&& (k &&& m) := by
  rw [← BitVec.and_assoc, h]

/-- Rounding an instruction address down to a word leaves it. -/
theorem alignPc_of_aligned {a : Word} (h : a.toNat % 4 = 0) : alignPc a = a := by
  apply BitVec.eq_of_toNat_eq
  rw [toNat_alignPc]
  omega

/-! ### The statements -/

/-- Settles O29: a value that leaves WE clear is written, under MSR_WRITABLE. -/
theorem mtmsrWritesMsr : Obligations.MtmsrWritesMsr :=
  ⟨fun _ => decode_mtmsr, fun _ _ hs hw => exec_mtmsr hs hw⟩

/-- Settles O30: the MSR is the result RT receives. -/
theorem mfmsrReadsMsr : Obligations.MfmsrReadsMsr :=
  ⟨fun _ => decode_mfmsr, fun rt _ hs => exec_of_result (exec_mfmsr hs rt)⟩

/-- Settles O31: `sc` is an entry to the noncritical class, whatever the mode. -/
theorem scTakesSystemCall : Obligations.ScTakesSystemCall := by
  refine ⟨?_, fun s => ⟨s.systemCall, rfl, rfl, toNat_vector s .systemCall⟩⟩
  rintro _ rfl
  exact decode_sc rfl

/-- Settles O32: the saved MSR comes back under MSR_WRITABLE, and the saved address rounded down to a word. -/
theorem rfiReturns : Obligations.RfiReturns := by
  refine ⟨?_, fun s hs hw => ⟨_, exec_rfi hs hw, rfl, toNat_alignPc s.srr0⟩⟩
  rintro _ rfl
  exact decode_rfi rfl

/-- Settles O34: each of the listed instructions is privileged, and the trap is an entry to the noncritical class. -/
theorem privilegedInUserModeTraps : Obligations.PrivilegedInUserModeTraps := by
  intro i s hs hi
  have hpriv : privileged i = true := by
    obtain rfl | ⟨r, rfl | rfl⟩ | ⟨n, r, hn, rfl | rfl⟩ := hi
    exacts [rfl, rfl, rfl, hn, hn]
  exact ⟨_, exec_privileged hpriv hs, rfl, toNat_vector s .program⟩

/-- Settles O35: `sc` saves the following address and the MSR, and the return finds both as `rfi` would write them. -/
theorem systemCallThenReturn : Obligations.SystemCallThenReturn := by
  intro s hmsr hpc
  have hwe : s.msr.getLsbD 18 = false := by
    have hclear : s.msr &&& msrWeMask = 0 := (and_of_inside hmsr msrWeMask).trans BitVec.and_zero
    rw [← setsWe_eq, setsWe, hclear]
    rfl
  have hback : s.msr &&& msrWritable = s.msr := (and_of_inside hmsr msrWritable).trans hmsr
  have hnext : alignPc s.nextPc = s.nextPc := by
    have hfour : (4 : Word).toNat = 4 := rfl
    apply alignPc_of_aligned
    rw [State.nextPc, BitVec.toNat_add, hfour]
    omega
  refine ⟨s.systemCall, _, rfl, exec_rfi (takeInterrupt_pr s _ _ _) hwe, ?_⟩
  calc s.systemCall.returnFromInterrupt
      = { s with pc := alignPc s.nextPc, srr0 := s.nextPc, srr1 := s.msr, msr := s.msr &&& msrWritable } := rfl
    _ = { s with pc := s.pc + 4, srr0 := s.pc + 4, srr1 := s.msr } := by rw [hnext, hback]; rfl

end Sys2Proof.Machine
end

section
/-!
PROOFS. User mode is confined (O52): an instruction in user mode leaves every supervisor register, or it takes an
interrupt, which enters supervisor mode at a vector.
-/

namespace Sys2Proof.Machine

/-- The supervisor registers, and what no step changes, are the same in both states. -/
def SameSupervisorRegs (s t : State) : Prop :=
  t = { s with
    gpr := t.gpr, pc := t.pc, cr := t.cr, lr := t.lr, ctr := t.ctr, xer := t.xer, mem := t.mem, stored := t.stored,
    pic := t.pic, pend := t.pend, inputs := t.inputs, freeIx := t.freeIx }

/-- From `s`, `t` is in supervisor mode at an interrupt's vector: the MSR is saved, the vectors, SPRGs and DEAR are as
they were (R215, R219, R220). -/
structure EntersAtVector (s t : State) : Prop where
  pr : t.pr = false
  pc : ∃ n : IntType, t.pc = s.vector n
  saved : t.srr1 = s.msr ∨ t.csrr1 = s.msr ∨ t.mcsrr1 = s.msr
  ivpr : t.ivpr = s.ivpr
  ivor : t.ivor = s.ivor
  sprg : t.sprg = s.sprg
  dear : t.dear = s.dear
  dbcr0Idm : t.dbcr0Idm = s.dbcr0Idm

namespace SameSupervisorRegs

variable {s u t : State}

theorem trans (h : SameSupervisorRegs s u) (k : SameSupervisorRegs u t) : SameSupervisorRegs s t :=
  Eq.trans k (by rw [h])

theorem msr (h : SameSupervisorRegs s t) : t.msr = s.msr := (congrArg State.msr h :)

theorem pr (h : SameSupervisorRegs s t) : t.pr = s.pr := (congrArg State.pr h :)

theorem ivpr (h : SameSupervisorRegs s t) : t.ivpr = s.ivpr := (congrArg State.ivpr h :)

theorem ivor (h : SameSupervisorRegs s t) : t.ivor = s.ivor := (congrArg State.ivor h :)

theorem sprg (h : SameSupervisorRegs s t) : t.sprg = s.sprg := (congrArg State.sprg h :)

theorem dear (h : SameSupervisorRegs s t) : t.dear = s.dear := (congrArg State.dear h :)

theorem dbcr0Idm (h : SameSupervisorRegs s t) : t.dbcr0Idm = s.dbcr0Idm := (congrArg State.dbcr0Idm h :)

theorem supervisorRegs (h : SameSupervisorRegs s t) : t.supervisorRegs = s.supervisorRegs :=
  (congrArg State.supervisorRegs h :)

/-- What enters from a state with the same supervisor registers enters. -/
theorem enters (h : SameSupervisorRegs s u) (k : EntersAtVector u t) : EntersAtVector s t where
  pr := k.pr
  pc := k.pc.imp fun n hn => hn.trans (vector_congr h.ivpr h.ivor n)
  saved := h.msr ▸ k.saved
  ivpr := k.ivpr.trans h.ivpr
  ivor := k.ivor.trans h.ivor
  sprg := k.sprg.trans h.sprg
  dear := k.dear.trans h.dear
  dbcr0Idm := k.dbcr0Idm.trans h.dbcr0Idm

end SameSupervisorRegs

/-! ### The operations -/

theorem storeWord_sameSupervisorRegs {ea v : Word} {s t : State} (h : storeWord ea v s = .next t) :
    SameSupervisorRegs s t := by
  obtain ⟨-, rfl⟩ | ⟨r, -, -, -, rfl⟩ := storeWord_next h <;> rfl

/-- The special registers `mtspr` may write in user mode are XER, LR and CTR (R36, R172). -/
theorem setSpr_sameSupervisorRegs_of_user {n : BitVec 10} {r : SprReg} (hp : sprPrivileged n = false)
    (hn : sprModel n = .rw r) (s : State) (v : Word) : SameSupervisorRegs s (s.setSpr r v) := by
  have hr := user_sprModel hp (by rw [hn]; rfl)
  simp only [hn, SprModel.rw.injEq] at hr
  obtain rfl | rfl | rfl := hr <;> rfl

/-- The masked registers are privileged (R36, R172). -/
theorem sprPrivileged_of_masked {n : BitVec 10} {r : SprReg} {m : Word} (hn : sprModel n = .masked r m) :
    sprPrivileged n = true := by
  by_contra hp
  have hr := user_sprModel ((Bool.not_eq_true _).mp hp) (by rw [hn]; rfl)
  simp [hn] at hr

theorem takeInterrupt_entersAtVector (s : State) (t : IntType) (ret : Word) (e : Option Word) :
    EntersAtVector s (s.takeInterrupt t ret e) where
  pr := takeInterrupt_pr s t ret e
  pc := ⟨t, takeInterrupt_pc s t ret e⟩
  saved := takeInterrupt_saves s t ret e
  ivpr := takeInterrupt_ivpr s t ret e
  ivor := takeInterrupt_ivor s t ret e
  sprg := takeInterrupt_sprg s t ret e
  dear := takeInterrupt_dear s t ret e
  dbcr0Idm := takeInterrupt_dbcr0Idm s t ret e

/-! ### The instructions -/

/-- An instruction in user mode leaves the supervisor registers or takes an interrupt (R172, R235). -/
theorem Effect.confined {s t : State} {i : Instr} (h : Effect s i t) (hs : s.pr = true) :
    SameSupervisorRegs s t ∨ EntersAtVector s t := by
  cases h with
  | trap hi _ => exact .inr (takeInterrupt_entersAtVector ..)
  | call => exact .inr (takeInterrupt_entersAtVector ..)
  | result v hr => exact .inl rfl
  | record rs ra sh mb me => exact .inl rfl
  | branch li aa lk => cases lk <;> exact .inl rfl
  | branchLr bo bi lk => cases lk <;> exact .inl rfl
  | ret hsup hw => simp [hs] at hsup
  | writeMsr hsup hw => simp [hs] at hsup
  | writeSpr hp hn =>
    rw [hs, Bool.and_true] at hp
    exact .inl ((setSpr_sameSupervisorRegs_of_user hp hn s _).trans rfl)
  | writeMaskedSpr hp hn => simp [hs, sprPrivileged_of_masked hn] at hp
  | store hra ha hu => exact .inl ((storeWord_sameSupervisorRegs hu).trans rfl)

/-! ### The boundary -/

theorem applyEvent_sameSupervisorRegs (s : State) (e : EnvEvent) : SameSupervisorRegs s (s.applyEvent e) := by
  cases e <;> rfl

theorem applyEvents_sameSupervisorRegs (s : State) (es : List EnvEvent) :
    SameSupervisorRegs s (s.applyEvents es) := by
  induction es generalizing s with
  | nil => rfl
  | cons e es ih => exact (applyEvent_sameSupervisorRegs s e).trans (ih _)

theorem arrive_sameSupervisorRegs (s : State) : SameSupervisorRegs s s.arrive := by
  unfold State.arrive
  split
  · rfl
  · rename_i b rest _
    have hused : SameSupervisorRegs s { s with inputs := rest } := rfl
    exact hused.trans (applyEvents_sameSupervisorRegs _ _)

theorem boundary_interrupt_sameSupervisorRegs {s t : State} {a : AsyncInt} (h : boundary s = .interrupt a t) :
    SameSupervisorRegs s t := by
  obtain ⟨-, k, rfl⟩ := boundary_interrupt h
  exact (arrive_sameSupervisorRegs s).trans rfl

theorem boundary_run_sameSupervisorRegs {s t : State} (h : boundary s = .run t) : SameSupervisorRegs s t := by
  obtain ⟨k, rfl⟩ := boundary_run h
  exact (arrive_sameSupervisorRegs s).trans rfl

/-! ### The step -/

theorem step_confined {s t : State} (hs : s.pr = true) (ht : step s = .next t) :
    SameSupervisorRegs s t ∨ EntersAtVector s t := by
  obtain ⟨a, u, hb, rfl⟩ | ⟨u, w, i, hb, -, -, hx⟩ := step_next ht
  · exact .inr ((boundary_interrupt_sameSupervisorRegs hb).enters (takeInterrupt_entersAtVector ..))
  · have hsame := boundary_run_sameSupervisorRegs hb
    exact ((exec_effect hx).confined (hsame.pr.trans hs)).imp hsame.trans hsame.enters

/-- Settles O52: the boundary leaves the supervisor registers, and what follows is an interrupt entry or one
instruction in user mode. -/
theorem userModeIsConfined : Obligations.UserModeIsConfined := by
  intro s t hs ht
  obtain h | ⟨hpr, hpc, hsaved, hivpr, hivor, hsprg, hdear, hidm⟩ := step_confined hs ht
  · exact .inl ⟨h.pr.trans hs, h.supervisorRegs, h.dbcr0Idm⟩
  · exact .inr ⟨hpr, hpc, hsaved, hivpr, hivor, hsprg, hdear, hidm⟩

end Sys2Proof.Machine
end

section
/-!
PROOFS. Taking an interrupt: where it goes on, what an entry of each class changes, and what no entry changes (O36 to
O40).
-/

namespace Sys2Proof.Machine

/-! ### The classes (R207) -/

theorem intClass_noncritical_iff (t : IntType) :
    intClass t = .noncritical ↔ t ∉ [IntType.criticalInput, .machineCheck, .watchdog, .debug] := by
  cases t <;> decide

theorem intClass_critical_iff (t : IntType) :
    intClass t = .critical ↔ t ∈ [IntType.criticalInput, .watchdog, .debug] := by
  cases t <;> decide

/-! ### MCSRR0 (R220) -/

theorem mcheckAddress_of_recoverable {s : State} (h : s.pend.mcRecoverable = true) (ret : Word) :
    s.mcheckAddress ret = ret :=
  if_pos h

theorem mcheckAddress_mod_of_not_recoverable {s : State} (h : s.pend.mcRecoverable = false) (ret : Word) :
    (s.mcheckAddress ret).toNat % 4 = 0 := by
  rw [State.mcheckAddress, h, if_neg Bool.false_ne_true, toNat_alignPc]
  omega

/-! ### The statements -/

/-- Settles O36: every entry goes on at the type's vector. -/
theorem vectorAddress : Obligations.VectorAddress := by
  intro s t ret e
  rw [takeInterrupt_pc, toNat_vector]

/-- Settles O37: the types outside the list are those of the noncritical class, whose entry is the stated update. -/
theorem noncriticalEntry : Obligations.NoncriticalEntry :=
  fun s t ret e ht => takeInterrupt_noncritical ((intClass_noncritical_iff t).mpr ht) s ret e

/-- Settles O38: the listed types are those of the critical class, whose entry is the stated update. -/
theorem criticalEntry : Obligations.CriticalEntry :=
  fun s t ret e ht => takeInterrupt_critical ((intClass_critical_iff t).mpr ht) s ret e

/-- Settles O39: a machine check is the one type of its class; a free address has its two low bits cleared. -/
theorem machineCheckEntry : Obligations.MachineCheckEntry :=
  fun s ret e => ⟨s.enterMachineCheck .machineCheck ret, takeInterrupt_machineCheck rfl s ret e, rfl,
    fun h => mcheckAddress_of_recoverable h ret, fun h => mcheckAddress_mod_of_not_recoverable h ret⟩

/-- Settles O40: register by register, and memory and the PIC as a whole. -/
theorem interruptEntryFrame : Obligations.InterruptEntryFrame := by
  intro s t ret e
  obtain ⟨hcr, hlr, hctr, hxer, husprg0⟩ := takeInterrupt_sameUserRegs s t ret e
  obtain ⟨hmem, hstored, hpic⟩ := takeInterrupt_sameStorage s t ret e
  exact ⟨takeInterrupt_reg s t ret e, hcr, hlr, hctr, hxer, takeInterrupt_ivpr s t ret e,
    ivorOf_congr (takeInterrupt_ivor s t ret e), takeInterrupt_sprg s t ret e, husprg0, takeInterrupt_dear s t ret e,
    fun a => by rw [hmem], hstored, hpic, takeInterrupt_pend s t ret e, takeInterrupt_pr s t ret e⟩

end Sys2Proof.Machine
end

section
/-!
PROOFS. The values `mtmsr` and `rfi` refuse in supervisor mode (O33).
-/

namespace Sys2Proof.Machine

section
variable {s : State} (hs : s.pr = false)
include hs

theorem exec_mtmsr_of_we {rs : Reg} (hw : (s.reg rs).getLsbD 18 = true) :
    exec (.mtmsr rs) s = .refused .msrWeSet := by
  rw [← setsWe_eq] at hw
  simp [exec, execMtmsr, hs, hw]

theorem exec_rfi_of_we (hw : s.srr1.getLsbD 18 = true) : exec .rfi s = .refused .msrWeSet := by
  rw [← setsWe_eq] at hw
  simp [exec, execRfi, hs, hw]

end

/-- An outcome that is a refusal when a bit is set and a next state when it is clear. -/
theorem eq_refused_iff_bit {o : Host.Outcome State Fault Refusal} {r : Refusal} {t : State} {b : Bool}
    (hset : b = true → o = .refused r) (hclear : b = false → o = .next t) : o = .refused r ↔ b = true := by
  cases b with
  | true => simp [hset rfl]
  | false => simp [hclear rfl]

/-- Settles O33: with WE set each refuses, with WE clear each goes on. -/
theorem settingWaitEnableIsRefused : Obligations.SettingWaitEnableIsRefused :=
  fun _ _ hs => ⟨eq_refused_iff_bit (exec_mtmsr_of_we hs) (exec_mtmsr hs),
    eq_refused_iff_bit (exec_rfi_of_we hs) (exec_rfi hs)⟩

end Sys2Proof.Machine
end

section
/-!
PROOFS. The instruction boundary: which asynchronous condition may be taken (O41, O42), and what the step does with it
(O8).
-/

namespace Sys2Proof.Machine

/-! ### Enabling (R212) -/

/-- A bit inside a mask a word does not meet is clear. -/
theorem getLsbD_of_and_eq_zero {x m : Word} (h : x &&& m = 0) {k : Nat} (hk : m.getLsbD k = true) :
    x.getLsbD k = false := by
  have hbit : (x &&& m).getLsbD k = (0 : Word).getLsbD k := by rw [h]
  simpa [hk] using hbit

/-- With CE, EE, ME and DE clear nothing is enabled. -/
theorem enabled_of_msr_clear {s : State} (h : s.msr &&& 0x00029200 = 0) (a : AsyncInt) : s.enabled a = false := by
  have hce : s.ce = false := getLsbD_of_and_eq_zero h rfl
  have hee : s.ee = false := getLsbD_of_and_eq_zero h rfl
  have hme : s.me = false := getLsbD_of_and_eq_zero h rfl
  have hde : s.de = false := getLsbD_of_and_eq_zero h rfl
  cases a <;> simp only [State.enabled, hce, hee, hme, hde, Bool.false_and]

/-- Settles O41: each row of R212 is the definition's, what may be taken passes its row's test, and with the four bits
clear no row's does. -/
theorem onlyEnabledInterruptsAreTaken : Obligations.OnlyEnabledInterruptsAreTaken := by
  refine ⟨fun _ => ⟨⟨rfl, rfl⟩, ⟨rfl, rfl⟩, ⟨rfl, rfl⟩, ⟨rfl, rfl⟩, ⟨rfl, rfl⟩, ⟨rfl, rfl⟩, ⟨rfl, rfl⟩, ⟨rfl, rfl⟩⟩,
    fun s a h => ?_, fun s h => ?_⟩
  · obtain ⟨hen, hpend⟩ := candidate_some h
    cases a with
    | criticalInput => exact ⟨hen, (Bool.or_eq_true _ _).mp hpend⟩
    | debug =>
      obtain ⟨hde, hidm⟩ := (Bool.and_eq_true _ _).mp hen
      exact ⟨hde, hidm, hpend⟩
    | _ => exact ⟨hen, hpend⟩
  · rw [candidate_none_iff]
    intro a
    rw [enabled_of_msr_clear h, Bool.false_and]

/-! ### Priority (R214) -/

/-- What a search finds stands no later than anything it looks for. -/
theorem idxOf_le_of_find? {α : Type} [DecidableEq α] {l : List α} {p : α → Bool} {a c : α}
    (h : l.find? p = some a) (hc : p c = true) : l.idxOf a ≤ l.idxOf c := by
  induction l with
  | nil => simp at h
  | cons x l ih =>
    by_cases hx : p x = true
    · obtain rfl : x = a := by simpa [hx] using h
      simp
    · have hxa : x ≠ a := fun k => hx (by rw [k]; exact List.find?_some h)
      have hxc : x ≠ c := fun k => hx (k ▸ hc)
      rw [List.find?_cons_of_neg hx] at h
      rw [List.idxOf_cons_ne _ hxa, List.idxOf_cons_ne _ hxc]
      exact Nat.succ_le_succ (ih h)

/-- Settles O42: the search runs along the default order, and it finds nothing only when nothing is pending and
enabled. -/
theorem highestPriorityIsTaken : Obligations.HighestPriorityIsTaken := by
  refine ⟨fun s a c hprio ha hen hpend => ?_, fun s c hen hpend => ?_⟩
  · have hle := idxOf_le_of_find? ha (c := c) (by rw [hen, hpend]; rfl)
    have hmem : ∀ b, b ∈ Config.defaultPriority := mem_allAsync
    rwa [hprio, List.idxOf_append_of_mem (hmem a), List.idxOf_append_of_mem (hmem c)] at hle
  · rw [Option.isSome_iff_ne_none]
    intro hnone
    have hc := (candidate_none_iff s).mp hnone c
    simp [hen, hpend] at hc

/-! ### What the step does (R213) -/

theorem arrive_of_cons {s : State} {b : Boundary} {rest : List Boundary} (h : s.inputs = b :: rest) :
    s.arrive = b.events.foldl State.applyEvent { s with inputs := rest } := by
  rw [State.arrive, h, ← applyEvents_eq_foldl]

theorem step_of_boundary_interrupt {s t : State} {a : AsyncInt} (h : boundary s = .interrupt a t) :
    step s = .next (t.takeAsync a) := by
  simp only [step, h]

theorem boundary_of_entry {s : State} {a : AsyncInt} {b : Boundary} {rest : List Boundary} (hi : s.inputs = b :: rest)
    (ha : s.arrive.candidate = some a) : boundary s = if b.takes then .interrupt a s.arrive else .run s.arrive := by
  simp only [boundary, ha, hi]

theorem step_of_entry {s : State} {a : AsyncInt} {b : Boundary} {rest : List Boundary} (hi : s.inputs = b :: rest)
    (ha : s.arrive.candidate = some a) :
    step s = if b.takes then .next (s.arrive.takeInterrupt (asyncType a) s.pc none) else runInstruction s.arrive := by
  have hb := boundary_of_entry hi ha
  cases hk : b.takes with
  | true =>
    rw [hk] at hb
    rw [step_of_boundary_interrupt hb, State.takeAsync, arrive_pc]
    rfl
  | false =>
    rw [hk] at hb
    exact step_of_boundary_run hb

theorem boundary_of_no_entry {s : State} {a : AsyncInt} (hi : s.inputs = []) (ha : s.candidate = some a) :
    boundary s = if Config.takesInterrupt s.freeIx then .interrupt a { s with freeIx := s.freeIx + 1 }
      else .run { s with freeIx := s.freeIx + 1 } := by
  rw [← arrive_of_nil hi] at ha
  simp only [boundary, ha, hi]

/-- Without an entry either may happen, and a free value has been drawn. -/
theorem step_of_no_entry {s : State} {a : AsyncInt} (hi : s.inputs = []) (ha : s.candidate = some a) :
    step s = .next ({ s with freeIx := s.freeIx + 1 }.takeInterrupt (asyncType a) s.pc none) ∨
      step s = runInstruction { s with freeIx := s.freeIx + 1 } := by
  have hb := boundary_of_no_entry hi ha
  cases hk : Config.takesInterrupt s.freeIx with
  | true =>
    rw [hk] at hb
    exact .inl (step_of_boundary_interrupt hb)
  | false =>
    rw [hk] at hb
    exact .inr (step_of_boundary_run hb)

/-- Settles O8: the events are folded in order, then each outcome of the boundary has its own step. -/
theorem boundaryTakesOrRuns : Obligations.BoundaryTakesOrRuns :=
  ⟨⟨rfl, rfl, rfl, rfl, rfl, rfl, rfl, rfl⟩, fun _ => arrive_of_nil, fun _ _ _ => arrive_of_cons,
    fun _ h => step_of_boundary_run (boundary_of_no_candidate h), fun _ _ _ _ => step_of_entry,
    fun _ _ hi ha => ⟨_, rfl, step_of_no_entry hi ha⟩⟩

end Sys2Proof.Machine
end

section
/-!
PROOFS. A noncritical handler starts with EE = 0, and only software sets it again (O43).
-/

namespace Sys2Proof.Machine

/-- Every entry clears EE (R217, R219, R220). -/
theorem takeInterrupt_ee (s : State) (t : IntType) (ret : Word) (e : Option Word) :
    (s.takeInterrupt t ret e).msr.getLsbD 15 = false := by
  obtain ⟨m, hm, hmsr⟩ := takeInterrupt_msr s t ret e
  rw [hmsr, BitVec.getLsbD_and]
  obtain rfl | rfl | rfl := hm <;> simp [msrKeptNoncritical, msrKeptCritical]

/-- Of the instructions only `mtmsr` and `rfi` set EE (R226). -/
theorem sets_ee_of_exec {i : Instr} {s t : State} (h : exec i s = .next t) (hs : s.msr.getLsbD 15 = false)
    (ht : t.msr.getLsbD 15 = true) : (∃ r, i = .mtmsr r) ∨ i = .rfi := by
  have hne : t.msr ≠ s.msr := fun k => by rw [k, hs] at ht; cases ht
  obtain hmtmsr | hrfi | rfl | ⟨hi, hpr⟩ := mayWriteMsr_of_exec h hne
  · exact .inl hmtmsr
  · exact .inr hrfi
  · obtain rfl := Host.Outcome.next.inj h
    cases (takeInterrupt_ee ..).symm.trans ht
  · obtain rfl := Host.Outcome.next.inj ((exec_privileged hi hpr).symm.trans h)
    cases (takeInterrupt_ee ..).symm.trans ht

/-- Settles O43: every entry clears EE, only `mtmsr` and `rfi` set it, and while it is clear the conditions it enables
are not enabled. -/
theorem handlerStartsWithExternalDisabled : Obligations.HandlerStartsWithExternalDisabled := by
  refine ⟨fun s t ret e _ => ⟨takeInterrupt_ee s t ret e, takeInterrupt_pr s t ret e⟩, fun s t hs h ht => ?_,
    fun s u a hs hb => ?_⟩
  · obtain ⟨a, u, -, rfl⟩ | ⟨u, w, i, hb, hw, hi, hx⟩ := step_next h
    · cases (takeInterrupt_ee ..).symm.trans ht
    · rw [← boundary_run_msr hb] at hs
      exact ⟨u, w, i, hb, hw, hi, sets_ee_of_exec hx hs ht⟩
  · obtain ⟨ha, -⟩ := boundary_interrupt hb
    obtain ⟨hen, -⟩ := candidate_some ha
    rw [← arrive_msr] at hs
    cases a with
    | machineCheck => exact .inl rfl
    | debug => exact .inr (.inl rfl)
    | criticalInput => exact .inr (.inr (.inl rfl))
    | watchdog => exact .inr (.inr (.inr rfl))
    | externalInput | decrementer | fixedInterval | performanceMonitor => cases hs.symm.trans hen

end Sys2Proof.Machine
end

section
/-!
PROOFS. Who writes DEAR (O55).
-/

namespace Sys2Proof.Machine

theorem setSpr_dear_of_ne (s : State) {r : SprReg} (h : r ≠ .dear) (v : Word) : (s.setSpr r v).dear = s.dear :=
  (spr_setSpr s r .dear v).trans (if_neg h.symm)

/-- The number of DEAR in R36. -/
theorem sprModel_dear {n : BitVec 10} (h : sprModel n = .rw .dear) : n = 61 := by
  obtain ⟨r, hr, hn, hm⟩ := sprModel_row h (by decide)
  obtain ⟨-, -, -, hdear, -⟩ := sprTable_user_numbers r hr
  exact BitVec.eq_of_toNat_eq (hn.symm.trans (hdear hm))

theorem Effect.dear {s t : State} {i : Instr} (h : Effect s i t) : t.dear = s.dear ∨ ∃ rs, i = .mtspr 61 rs := by
  cases h with
  | trap hi hs => exact .inl (takeInterrupt_dear ..)
  | call => exact .inl (takeInterrupt_dear ..)
  | result v hr => exact .inl rfl
  | record rs ra sh mb me => exact .inl rfl
  | branch li aa lk => exact .inl (link_dear s lk)
  | branchLr bo bi lk => exact .inl (link_dear s lk)
  | ret hs hw => exact .inl rfl
  | writeMsr hs hw => exact .inl rfl
  | @writeSpr n rs r hp hn =>
    by_cases hr : r = .dear
    · subst hr
      exact .inr ⟨rs, by rw [sprModel_dear hn]⟩
    · exact .inl (setSpr_dear_of_ne s hr _)
  | @writeMaskedSpr n rs r m hp hn =>
    have hm : respectsMasks (.masked r m) = true := hn ▸ sprModel_respectsMasks n
    exact .inl (setSpr_dear_of_ne s (by rintro rfl; cases hm) _)
  | store hra ha hu => exact .inl (storeWord_sameSupervisorRegs hu).dear

/-- Settles O55: neither the boundary nor an entry writes DEAR, and of the instructions only `mtspr 61` does. -/
theorem dearIsWrittenOnlyByMtspr : Obligations.DearIsWrittenOnlyByMtspr := by
  intro s t h hne
  obtain ⟨a, u, hb, rfl⟩ | ⟨u, w, i, hb, hw, hi, hx⟩ := step_next h
  · exact absurd ((takeInterrupt_dear ..).trans (boundary_interrupt_sameSupervisorRegs hb).dear) hne
  · rw [← (boundary_run_sameSupervisorRegs hb).dear] at hne
    obtain ⟨rs, rfl⟩ := (exec_effect hx).dear.resolve_left hne
    exact ⟨u, w, rs, hb, hw, hi⟩

end Sys2Proof.Machine
end

section
/-!
PROOFS. The PIC: the map of its registers (O44), when a source is pending (O58), its outputs (O45, O60) and what a read
of PIC_IACK returns (O46).
-/

namespace Sys2Proof.Machine

/-- Settles O44: the offsets are the definition's, and no two registers share one. -/
theorem picRegisterMap : Obligations.PicRegisterMap :=
  ⟨picRegAt_eq_some_iff, rfl, fun _ => ⟨rfl, rfl⟩, fun _ => ⟨rfl, rfl⟩⟩

/-! ### Pending sources (R250) -/

theorem pending_ext_iff (p : Pic) (n : Fin 12) : p.pending (.ext n) = true ↔
    if (p.vpr (.ext n)).getLsbD 22 then p.ext[n].pin = (p.vpr (.ext n)).getLsbD 23 else p.ext[n].edge = true :=
  ext_pending_iff p.ext[n]

theorem pending_int_iff (p : Pic) (n : Fin 64) :
    p.pending (.int n) = true ↔ n ≠ 11 ∧ p.int[n].pin = (p.vpr (.int n)).getLsbD 23 := by
  simp [Pic.pending, isReserved, IntSource.pending, vprActiveHigh, Pic.vpr]

theorem pending_int_reserved (p : Pic) : p.pending (.int 11) = false := rfl

theorem applyEvent_setPin_ext (s : State) (n : Fin 12) (high : Bool) :
    (s.applyEvent (.setPin (.ext n) high)).pic.ext[n].pin = high := by
  simp [State.applyEvent, Pic.setPin, ExtSource.setPin]

theorem applyEvent_setPin_int (s : State) (n : Fin 64) (high : Bool) :
    (s.applyEvent (.setPin (.int n) high)).pic.int[n].pin = high := by
  simp [State.applyEvent, Pic.setPin]

/-- A driven pin clears no latched edge. -/
theorem ext_setPin_edge_of_latched {x : ExtSource} (h : x.edge = true) (high : Bool) : (x.setPin high).edge = true := by
  simp [ExtSource.setPin, h]

/-- What latches an edge (R250). -/
theorem applyEvent_latches_iff (s : State) (e : EnvEvent) (n : Fin 12) (h : s.pic.ext[n].edge = false) :
    (s.applyEvent e).pic.ext[n].edge = true ↔
      e = .setPin (.ext n) ((s.pic.vpr (.ext n)).getLsbD 23) ∧ (s.pic.vpr (.ext n)).getLsbD 22 = false ∧
        s.pic.ext[n].pin ≠ (s.pic.vpr (.ext n)).getLsbD 23 := by
  rw [applyEvent_edge, h]
  cases e with
  | setPin src high =>
    cases src with
    | ext m =>
      by_cases hm : m = n
      · subst hm
        simp only [if_pos, ext_setPin_edge _ _ h, EnvEvent.setPin.injEq, true_and]
        rfl
      · simp [hm]
    | int m => simp
  | _ => simp

/-- What clears a latched edge (R252). -/
theorem applyEvent_clears_iff (s : State) (e : EnvEvent) (n : Fin 12) (h : s.pic.ext[n].edge = true) :
    (s.applyEvent e).pic.ext[n].edge = false ↔
      e = .readIack ∧ s.config.iackAcknowledges = true ∧ Pic.highest s.config s.pic = some (.ext n) := by
  rw [applyEvent_edge, h]
  cases e with
  | setPin src high =>
    cases src with
    | ext m => simp [-Fin.getElem_fin, ext_setPin_edge_of_latched h]
    | int m => simp
  | _ => simp

/-- Settles O58: the two kinds of source, a driven pin, and the edges an event latches and clears. -/
theorem pendingFollowsRequestInputs : Obligations.PendingFollowsRequestInputs :=
  ⟨pending_ext_iff, pending_int_iff, applyEvent_setPin_ext, applyEvent_setPin_int, applyEvent_latches_iff,
    applyEvent_clears_iff⟩

/-! ### The outputs -/

theorem destSelects_iff (dest coreId : Word) : destSelects dest coreId = true ↔
    (coreId = 0 ∧ dest.getLsbD 0 = true) ∨ (coreId = 1 ∧ dest.getLsbD 1 = true) := by
  simp [destSelects]

/-- With the open comparisons of R251 off, a source outranks when its PRIORITY is not 0. -/
theorem outranks_of_priority {c : Config} (ht : c.taskPriority = 0) (hm : c.inServiceMasks = false) {p : Pic}
    {s : Source} (h : (p.vpr s).extractLsb' 16 4 ≠ 0) : Pic.outranks c p s = true := by
  have hpos : 0#4 < (p.vpr s).extractLsb' 16 4 := (BitVec.pos_iff_ne_zero _).mpr h
  simp [Pic.outranks, ht, hm, vprPriority, hpos]

/-- With the open comparisons off, `int` is asserted exactly when there is a request (R251). -/
theorem extInt_iff {c : Config} (ht : c.taskPriority = 0) (hm : c.inServiceMasks = false) (p : Pic) :
    Pic.extInt c p = true ↔ ∃ s, p.eligible s = true ∧ destSelects (p.dest s) c.coreId = true := by
  simp only [Pic.extInt, List.any_eq_true, mem_requests]
  constructor
  · rintro ⟨s, hs, -⟩
    exact ⟨s, hs⟩
  · rintro ⟨s, hs⟩
    obtain ⟨-, -, hprio⟩ := (eligible_iff p s).mp hs.1
    exact ⟨s, hs, outranks_of_priority ht hm hprio⟩

/-- Settles O45: a request is an eligible source whose destination selects the core. -/
theorem intOutputFollowsEligibleSources : Obligations.IntOutputFollowsEligibleSources := by
  refine fun c p ht hm => ⟨?_, pending_int_reserved p⟩
  simp only [extInt_iff ht hm, eligible_iff, destSelects_iff, and_assoc]

/-- Settles O60: each output asks every source whether it is eligible and directed there. -/
theorem criticalOutputFollowsDestinations : Obligations.CriticalOutputFollowsDestinations := by
  intro p
  simp only [Pic.critOut, Pic.irqOut, any_allSources, Bool.and_eq_true, eligible_iff, destCritical, destExternal,
    and_assoc, and_self]

/-! ### PIC_IACK (R252) -/

theorem isHighest_iff (c : Config) (p : Pic) (s : Source) : Pic.isHighest c p s = true ↔
    ∀ q ∈ Pic.requests c p, (vprPriority (p.vpr q)).toNat ≤ (vprPriority (p.vpr s)).toNat := by
  simp [Pic.isHighest, BitVec.le_def]

/-- Among requests one has the highest priority. -/
theorem exists_isHighest {c : Config} {p : Pic} (h : ∃ s, s ∈ Pic.requests c p) :
    ∃ s ∈ Pic.requests c p, Pic.isHighest c p s = true := by
  obtain ⟨s, hs⟩ := h
  obtain ⟨t, ht, hmax⟩ := (Pic.requests c p).toFinset.exists_max_image (fun q => (vprPriority (p.vpr q)).toNat)
    ⟨s, List.mem_toFinset.mpr hs⟩
  exact ⟨t, List.mem_toFinset.mp ht, (isHighest_iff c p t).mpr fun q hq => hmax q (List.mem_toFinset.mpr hq)⟩

/-- Whatever the order among equals, a request of highest priority is found when there is a request. -/
theorem highest_of_request {c : Config} {p : Pic} (h : ∃ s, s ∈ Pic.requests c p) :
    ∃ s, Pic.highest c p = some s ∧ s ∈ Pic.requests c p ∧ Pic.isHighest c p s = true := by
  cases hh : Pic.highest c p with
  | none =>
    obtain ⟨s, hs, hmax⟩ := exists_isHighest h
    have hno := List.find?_eq_none.mp hh s (List.mem_append_right _ (mem_allSources s))
    simp [hs, hmax] at hno
  | some s => exact ⟨s, rfl, by simpa using List.find?_some hh⟩

theorem toNat_iackValue {c : Config} {p : Pic} {s : Source} (h : Pic.highest c p = some s) :
    (Pic.iackValue c p).toNat = (p.vpr s).toNat % 2 ^ 16 := by
  have happend : (0#16 ++ vprVector (p.vpr s) : Word).toNat = (0#16).toNat * 2 ^ 16 + (vprVector (p.vpr s)).toNat :=
    toNat_append_eq _ _
  rw [Pic.iackValue, h]
  exact happend.trans (by simp [vprVector])

/-- Settles O46: the source found is a request of highest priority, and its VECTOR is what is returned. -/
theorem iackReturnsHighestVector : Obligations.IackReturnsHighestVector := by
  intro c p h
  obtain ⟨s, hh, hs, hmax⟩ := highest_of_request h
  obtain ⟨hel, hsel⟩ := (mem_requests c p s).mp hs
  exact ⟨s, hel, hsel, fun q hq hqsel => (isHighest_iff c p s).mp hmax q ((mem_requests c p q).mpr ⟨hq, hqsel⟩),
    toNat_iackValue hh⟩

end Sys2Proof.Machine
end

section
/-!
PROOFS. A `stwu` to a PIC register writes that register's fields and nothing else in the PIC (O19).
-/

namespace Sys2Proof.Machine

/-! ### Where the store goes -/

/-- Every register of R245 lies in the PIC block. -/
theorem inPicBlock_of_register (c : Config) (r : PicReg) :
    inPicBlock c (c.ccsrbar + BitVec.ofNat 32 (picRegOffset r)) = true := by
  have h : 0x40000 ≤ picRegOffset r ∧ picRegOffset r < 0x60000 := by cases r <;> simp only [picRegOffset] <;> omega
  simp [inPicBlock, picOffset_of_register, h]

theorem storeTarget_of_register (c : Config) {r : PicReg} (h : r ≠ .iack) :
    storeTarget c (c.ccsrbar + BitVec.ofNat 32 (picRegOffset r)) = .pic r := by
  rw [storeTarget, if_pos (inPicBlock_of_register c r), picOffset_of_register, picRegAt_offset]
  cases r with
  | iack => exact absurd rfl h
  | eivpr | eidr | iivpr | iidr => rfl

theorem storeWord_of_pic {s : State} {ea v : Word} {r : PicReg} (h : storeTarget s.config ea = .pic r) :
    storeWord ea v s = .next { s with pic := s.pic.write r v } := by
  rw [storeWord, h]

/-! ### The registers after a write -/

theorem write_vpr_ext (p : Pic) (r : PicReg) (v : Word) (n : Fin 12) :
    (p.write r v).vpr (.ext n) = if r = .eivpr n then v &&& 0x80CFFFFF else p.vpr (.ext n) := by
  rw [write_vpr]
  cases r <;> simp [eq_comm, eivprMask]

theorem write_vpr_int (p : Pic) (r : PicReg) (v : Word) (n : Fin 64) :
    (p.write r v).vpr (.int n) = if r = .iivpr n then v &&& 0x808FFFFF else p.vpr (.int n) := by
  rw [write_vpr]
  cases r <;> simp [eq_comm, iivprMask]

theorem write_dest_ext (p : Pic) (r : PicReg) (v : Word) (n : Fin 12) :
    (p.write r v).dest (.ext n) = if r = .eidr n then v &&& 0xC0000003 else p.dest (.ext n) := by
  rw [write_dest]
  cases r <;> simp [eq_comm, destMask]

theorem write_dest_int (p : Pic) (r : PicReg) (v : Word) (n : Fin 64) :
    (p.write r v).dest (.int n) = if r = .iidr n then v &&& 0xC0000003 else p.dest (.int n) := by
  rw [write_dest]
  cases r <;> simp [eq_comm, destMask]

theorem write_iack (p : Pic) (r : PicReg) (v : Word) : (p.write r v).iack = p.iack := by
  cases r <;> rfl

/-- Settles O19: the store's target is the register, and the PIC left is the one with that register written. -/
theorem stwuWritesPicRegister : Obligations.StwuWritesPicRegister := by
  intro rs ra d s r hra hr hea ha
  have htarget : storeTarget s.config (s.effectiveAddress ra d) = .pic r := hea ▸ storeTarget_of_register s.config hr
  exact ⟨_, exec_stwu_of_next hra ha (storeWord_of_pic htarget), rfl, reg_setReg_same _ ra _,
    fun _ hq => reg_setReg_ne _ _ hq, write_vpr_ext s.pic r _, write_vpr_int s.pic r _, write_dest_ext s.pic r _,
    write_dest_int s.pic r _, write_iack s.pic r _, write_ext_request s.pic r _, write_int_request s.pic r _⟩

end Sys2Proof.Machine
end

section
/-!
PROOFS. The state after reset (R260): the values the spec states (O47), and that the environment alone cannot get an
interrupt taken from there (O48).
-/

namespace Sys2Proof.Machine

section Reset

variable (c : Config)

/-! ### The sources of the PIC -/

theorem resetWith_ext (n : Fin 12) : (State.resetWith c).pic.ext[n] = ExtSource.reset :=
  Vector.getElem_replicate n.isLt

theorem resetWith_int (n : Fin 64) : (State.resetWith c).pic.int[n] = IntSource.reset :=
  Vector.getElem_replicate n.isLt

theorem resetWith_vpr_ext (n : Fin 12) : (State.resetWith c).pic.vpr (.ext n) = 0x80000000 :=
  congrArg ExtSource.vpr (resetWith_ext c n)

theorem resetWith_vpr_int (n : Fin 64) : (State.resetWith c).pic.vpr (.int n) = 0x80800000 :=
  congrArg IntSource.vpr (resetWith_int c n)

theorem resetWith_dest : ∀ src, (State.resetWith c).pic.dest src = 0x00000001
  | .ext n => congrArg ExtSource.dest (resetWith_ext c n)
  | .int n => congrArg IntSource.dest (resetWith_int c n)

theorem resetWith_inService : ∀ src, (State.resetWith c).pic.inService src = false
  | .ext n => congrArg ExtSource.inService (resetWith_ext c n)
  | .int n => congrArg IntSource.inService (resetWith_int c n)

/-- At reset no edge is latched, and every input of a level-sensitive source is at its inactive level (log 28). -/
theorem resetWith_pic_pending (src : Source) : (State.resetWith c).pic.pending src = false := by
  unfold Pic.pending
  rw [Bool.and_eq_false_iff]
  right
  cases src with
  | ext n => exact congrArg ExtSource.pending (resetWith_ext c n)
  | int n => exact congrArg IntSource.pending (resetWith_int c n)

/-- Every source has MSK set at reset. -/
theorem resetWith_vprMasked (src : Source) : vprMasked ((State.resetWith c).pic.vpr src) = true := by
  cases src with
  | ext n => rw [resetWith_vpr_ext]; rfl
  | int n => rw [resetWith_vpr_int]; rfl

/-- A source with MSK set is not eligible, whatever its request input does (R250). -/
theorem eligible_of_masked {p : Pic} {src : Source} (h : vprMasked (p.vpr src) = true) : p.eligible src = false := by
  simp [Pic.eligible, h]

/-! ### The asynchronous conditions -/

theorem resetWith_pending (a : AsyncInt) : (State.resetWith c).pending a = false := by
  obtain ⟨hint, hcint, -⟩ :=
    outputs_of_no_eligible c (State.resetWith c).pic fun src => eligible_of_masked (resetWith_vprMasked c src)
  cases a with
  | criticalInput =>
    rw [State.pending, hcint]
    rfl
  | externalInput => exact hint
  | _ => rfl

end Reset

/-! ### The statements -/

/-- Settles O48: events write neither the MSR nor a vector/priority register, so after any of them every enabling bit is
still clear and every source still masked. -/
theorem nothingIsTakenAfterReset : Obligations.NothingIsTakenAfterReset := by
  intro c es
  constructor
  · have hmsr : ((State.resetWith c).applyEvents es).msr &&& 0x00029200 = 0 := by
      rw [applyEvents_msr]
      exact BitVec.zero_and
    exact onlyEnabledInterruptsAreTaken.2.2 _ hmsr
  · intro src
    apply eligible_of_masked
    rw [applyEvents_vpr]
    exact resetWith_vprMasked c src

/-- Settles O47: the registers hold the values the reset state is made of; nothing is pending, since every input is
inactive and every source masked. -/
theorem resetValues : Obligations.ResetValues := by
  intro c
  have hivor (t : IntType) : (State.resetWith c).ivorOf t = 0 := Vector.getElem_replicate _
  have hpvr : (State.resetWith c).pvr = if c.variant = .e500v1 then 0x80200010 else 0x80210010 := by
    cases h : c.variant <;> simp [State.pvr, State.resetWith, h]
  exact ⟨rfl, rfl, hivor, resetWith_vpr_ext c, resetWith_vpr_int c, resetWith_dest c, rfl,
    fun src => ⟨resetWith_pic_pending c src, resetWith_inService c src⟩, resetWith_pending c, BitVec.getLsbD_zero, hpvr⟩

end Sys2Proof.Machine
end

section
/-!
PROOFS. Decoding and encoding are inverse to each other (O4, O5): a word of a row holds the row's opcode and reserved
bits where the format places them and the decoded operands everywhere else.
-/

namespace Sys2Proof

/-! ### Putting a word together from its fields -/

/-- A one-bit field is the bit it holds. -/
theorem ofBool_getLsbD (w : Word) (k : Nat) : BitVec.ofBool (w.getLsbD k) = w.extractLsb' k 1 := by
  apply BitVec.eq_of_getLsbD_eq
  intro j hj
  obtain rfl : j = 0 := by omega
  simp

/-- A D-form word is its opcode and its operands (R112). -/
theorem encodeD_of_opcode {w : Word} {op : BitVec 6} (hop : w.extractLsb' 26 6 = op) :
    encodeD op (field5 w 21) (field5 w 16) (field16 w) = w := by
  subst hop
  simp (disch := decide) only [encodeD, field16, bits5_field5,
    BitVec.extractLsb'_append_extractLsb'_eq_extractLsb', BitVec.extractLsb'_eq_self]

/-- A word of `mtmsr` or `mfmsr` is its opcodes, its reserved bits and a register (R115). -/
theorem encodeX_of_opcodes {w : Word} {xo : BitVec 10} (hop : w.extractLsb' 26 6 = 31#6)
    (hres : w.extractLsb' 11 10 = 0#10) (hxo : w.extractLsb' 1 10 = xo) (hlow : w.extractLsb' 0 1 = 0#1) :
    encodeX (field5 w 21) xo = w := by
  subst hxo
  simp (disch := decide) only [encodeX, bits5_field5, ← hop, ← hres, ← hlow,
    BitVec.extractLsb'_append_extractLsb'_eq_extractLsb', BitVec.extractLsb'_eq_self]

/-- An XFX-form word is its opcodes, its last bit, a register and an SPR number, the number's halves swapped
(R116). -/
theorem encodeXFX_of_opcodes {w : Word} {xo : BitVec 10} (hop : w.extractLsb' 26 6 = 31#6)
    (hxo : w.extractLsb' 1 10 = xo) (hlow : w.extractLsb' 0 1 = 0#1) :
    encodeXFX (field5 w 21) (fieldSpr w) xo = w := by
  subst hxo
  simp (disch := decide) only [encodeXFX, fieldSpr, bits5_field5, ← hop, ← hlow, BitVec.extractLsb'_append_eq_right,
    BitVec.extractLsb'_append_eq_left, BitVec.extractLsb'_append_extractLsb'_eq_extractLsb',
    BitVec.extractLsb'_eq_self]

theorem encode_b_of_opcode {w : Word} (hop : w.extractLsb' 26 6 = 18#6) :
    encode (.b (w.extractLsb' 2 24) (w.getLsbD 1) (w.getLsbD 0)) = w := by
  simp (disch := decide) only [encode, ofBool_getLsbD, ← hop, BitVec.extractLsb'_append_extractLsb'_eq_extractLsb',
    BitVec.extractLsb'_eq_self]

theorem encode_bclr_of_opcodes {w : Word} (hop : w.extractLsb' 26 6 = 19#6) (hres : w.extractLsb' 11 5 = 0#5)
    (hxo : w.extractLsb' 1 10 = 16#10) :
    encode (.bclr (w.extractLsb' 21 5) (field5 w 16) (w.getLsbD 0)) = w := by
  simp (disch := decide) only [encode, bits5_field5, ofBool_getLsbD, ← hop, ← hres, ← hxo,
    BitVec.extractLsb'_append_extractLsb'_eq_extractLsb', BitVec.extractLsb'_eq_self]

theorem encode_rlwinm_of_opcode {w : Word} (hop : w.extractLsb' 26 6 = 21#6) :
    encode (.rlwinm (field5 w 21) (field5 w 16) (field5 w 11) (field5 w 6) (field5 w 1) (w.getLsbD 0)) = w := by
  simp (disch := decide) only [encode, bits5_field5, ofBool_getLsbD, ← hop,
    BitVec.extractLsb'_append_extractLsb'_eq_extractLsb', BitVec.extractLsb'_eq_self]

/-! ### The word of a row -/

/-- A word that matches a row is the word of the instruction the row builds from it: a field that the mask keeps
whole is the pattern's, and those are the fields the operands leave. -/
theorem encode_build {r : OpRow} {w : Word} (hr : r ∈ opRows) (hw : w &&& r.mask = r.pattern) :
    encode (r.build w) = w := by
  have fixed {lo n : Nat} {c : BitVec n} (hm : r.mask.extractLsb' lo n = BitVec.allOnes n)
      (hp : r.pattern.extractLsb' lo n = c) : w.extractLsb' lo n = c := by
    rw [← hp, ← hw, BitVec.extractLsb'_and, hm, BitVec.and_allOnes]
  simp only [opRows, List.mem_cons, List.not_mem_nil, or_false] at hr
  obtain rfl | rfl | rfl | rfl | rfl | rfl | rfl | rfl | rfl | rfl | rfl | rfl | rfl := hr
  · exact encodeD_of_opcode (fixed rfl rfl)
  · exact encodeD_of_opcode (fixed rfl rfl)
  · exact hw.symm.trans BitVec.and_allOnes
  · exact encode_b_of_opcode (fixed rfl rfl)
  · exact encode_bclr_of_opcodes (fixed rfl rfl) (fixed rfl rfl) (fixed rfl rfl)
  · exact hw.symm.trans BitVec.and_allOnes
  · exact encode_rlwinm_of_opcode (fixed rfl rfl)
  · exact encodeD_of_opcode (fixed rfl rfl)
  · exact encodeX_of_opcodes (fixed rfl rfl) (fixed rfl rfl) (fixed rfl rfl) (fixed rfl rfl)
  · exact encodeX_of_opcodes (fixed rfl rfl) (fixed rfl rfl) (fixed rfl rfl) (fixed rfl rfl)
  · exact encodeXFX_of_opcodes (fixed rfl rfl) (fixed rfl rfl) (fixed rfl rfl)
  · exact encodeXFX_of_opcodes (fixed rfl rfl) (fixed rfl rfl) (fixed rfl rfl)
  · exact encodeD_of_opcode (fixed rfl rfl)

/-! ### The round trips -/

/-- Settles O4: the encoded word matches the instruction's row, and the row reads every operand back. -/
theorem decodeOfEncode : Obligations.DecodeOfEncode := decode_encode

/-- Settles O5: a word decodes by the row it matches, and it is the word of what that row builds. -/
theorem encodeOfDecode : Obligations.EncodeOfDecode := by
  intro w i h
  obtain ⟨r, hr, hw, rfl⟩ := decode_eq_ok h
  exact encode_build hr hw

end Sys2Proof
end

section
/-!
PROOFS. A word placed at `pc` by `withFetchWord` is the next instruction (O10).
-/

namespace Sys2Proof.Machine

/-- An entry that takes nothing lets the core go on, whatever is pending (R213). -/
theorem boundary_of_entry_not_taking {s : State} {b : Boundary} {rest : List Boundary} (hi : s.inputs = b :: rest)
    (hb : b.takes = false) : boundary s = .run s.arrive := by
  cases hc : s.arrive.candidate with
  | none => exact boundary_of_no_candidate hc
  | some a => rw [boundary_of_entry hi hc, hb]; rfl

/-- The entry `withFetchWord` adds brings no event: what is left is the state with the word loaded. -/
theorem boundary_withFetchWord (s : State) (nbits w : Nat) :
    boundary (s.withFetchWord nbits w) = .run (s.loadWord s.pc (BitVec.ofNat 32 (w % 2 ^ nbits))) :=
  boundary_of_entry_not_taking (b := ⟨[], false⟩) rfl rfl

/-- Loading a word takes its bytes out of the record of stored addresses (log 33). -/
theorem loadWord_not_fetchesModified (s : State) (w : Word) : (s.loadWord s.pc w).fetchesModified = false := by
  rw [fetchesModified_eq_false_iff]
  intro x hx
  simpa using (List.mem_filter.mp hx).2

/-- A word loaded at a `pc` in MEM_REGIONS is the word the fetch gives. -/
theorem fetch_loadWord {s : State} (hm : isMemWord s.config s.pc = true) (w : Word) :
    fetch (s.loadWord s.pc w) = .word w :=
  (fetch_eq_word_iff _ w).mpr ⟨hm, loadWord_not_fetchesModified s w, readWord_writeWord s.mem s.pc w⟩

/-- Settles O10: the boundary hands on the state with the word loaded, the fetch gives the word, and loading it wrote
its four bytes and no other. -/
theorem loadedWordRunsNext : Obligations.LoadedWordRunsNext := by
  intro s nbits w i hm hi
  refine ⟨s.loadWord s.pc (BitVec.ofNat 32 (w % 2 ^ nbits)), ?_, rfl, fun a => readByte_writeWord_ne s.mem s.pc _ a,
    readWord_writeWord s.mem s.pc _⟩
  rw [step_of_boundary_run (boundary_withFetchWord s nbits w), runInstruction_eq (fetch_loadWord hm _) hi]

end Sys2Proof.Machine
end

section
/-!
PROOFS. An instruction writes no general register but its target (O56).
-/

namespace Sys2Proof.Machine

theorem link_reg (s : State) (lk : Bool) (r : Reg) : (s.link lk).reg r = s.reg r := reg_congr (link_gpr s lk) r

theorem storeWord_reg {ea v : Word} {s t : State} (h : storeWord ea v s = .next t) (r : Reg) : t.reg r = s.reg r := by
  obtain ⟨-, rfl⟩ | ⟨-, -, -, -, rfl⟩ := storeWord_next h <;> rfl

/-- The result goes to the target register; the other effects reach no general register. -/
theorem Effect.reg {s t : State} {i : Instr} (h : Effect s i t) {r : Reg} (hr : destReg i ≠ some r) :
    t.reg r = s.reg r := by
  have ne_target {q : Reg} (hq : destReg i = some q) : r ≠ q := fun k => hr (k ▸ hq)
  cases h with
  | trap hi hs => exact takeInterrupt_reg ..
  | call => exact takeInterrupt_reg ..
  | result v hq => exact reg_setReg_ne s v (ne_target hq)
  | record rs ra sh mb me => exact reg_setReg_ne s _ (ne_target rfl)
  | branch li aa lk => exact link_reg s lk r
  | branchLr bo bi lk => exact link_reg s lk r
  | ret hs hw => rfl
  | writeMsr hs hw => rfl
  | writeSpr hp hn => exact setSpr_reg ..
  | writeMaskedSpr hp hn => exact setSpr_reg ..
  | store hra ha hu => exact (reg_setReg_ne _ _ (ne_target rfl)).trans (storeWord_reg hu r)

/-- Settles O56: an instruction that goes on has one of its effects, and none writes another register. -/
theorem onlyTheTargetRegisterChanges : Obligations.OnlyTheTargetRegisterChanges :=
  fun _ _ _ _ h hr => (exec_effect h).reg hr

end Sys2Proof.Machine
end
